-- ==== Sys2Proof/Word.lean ====
section
/-! DEFINITION. The word types: bytes, 16-bit lengths and 32-bit field values. -/

namespace Sys2Proof

/-- An 8-bit value (`u8`, 00_scope R10). -/
abbrev Byte := BitVec 8

/-- A 16-bit value: the length field and the payload count (10_state R24, R27). -/
abbrev Half := BitVec 16

/-- A 32-bit value: a field register or an arena cell (10_state R36, R40). -/
abbrev Word := BitVec 32

end Sys2Proof
end

