-- ==== Sys2Proof/Config.lean ====
section
/-! DEFINITION. The configuration `cfg` (00_scope R9): its types, and the free values. -/

namespace Sys2Proof

/-- Numeric field types (30_encoding R102). -/
inductive NumTy where
  | u1 | u2 | u4 | i1 | i2 | i4 | x1 | x2 | x4
deriving DecidableEq, Repr

/-- The unit labels the layouts of 44_messages name; "a label with no effect on any computation" (30_encoding R101). -/
inductive FieldUnit where
  | none | second | degree | metre | metrePerSecond | bitPerSecond | dBHz
deriving DecidableEq, Repr

/-- A field descriptor `{dst, off, ty, k, unit, opt, dflt}` (30_encoding R101), for a numeric destination `F[dst]` or a
text destination `T[dst]` of type `CH(len)`. An absent text field takes the empty text whatever its `dflt`
(43_field_decoder R190). The destinations are the physical registers (log 15). -/
inductive Field where
  | num (dst : Fin 32) (off : Nat) (ty : NumTy) (k : Nat) (unit : FieldUnit) (opt : Bool) (dflt : Word)
  | text (dst : Fin 2) (off len : Nat) (k : Nat) (unit : FieldUnit) (opt : Bool) (dflt : Word)
deriving DecidableEq, Repr

/-- A column descriptor `{c, ioff, ty, k, unit}` of a repeating group (30_encoding R105). -/
structure Column where
  col : Fin 4
  ioff : Nat
  ty : NumTy
  k : Nat
  unit : FieldUnit
deriving DecidableEq, Repr

/-- A group descriptor `{cnt, hdr, item, cols}` (30_encoding R105). -/
structure Group where
  cnt : Fin 32
  hdr : Nat
  item : Nat
  cols : List Column
deriving DecidableEq, Repr

/-- A layout: the field descriptors in list order and the optional group (43_field_decoder R185). -/
structure Layout where
  fields : List Field
  group : Option Group
deriving DecidableEq, Repr

/-- A row `{cls, id, name, tag}` of the identity table (42_dispatch R171). A table may carry a tag above 7 and is then
invalid (42_dispatch R176 item 2). -/
structure IdRow where
  cls : Byte
  id : Byte
  name : List Byte
  tag : Nat
deriving DecidableEq, Repr

/-- One entry of the layout table: `LAYOUT[tag]` (20_memory R60). -/
structure LayoutRow where
  tag : Nat
  layout : Layout
deriving DecidableEq, Repr

/-- `TEXT_STRIP`: which 0x00 bytes a text field loses (43_field_decoder R193). -/
inductive TextStrip where
  | trailing | all
deriving DecidableEq, Repr

/-- The configuration (00_scope R9), a field for each of its parameters. What a value of `lenBits`, `pmax`, `tmax` or
`nports` other than the one R9 takes does is log 15. -/
structure Config where
  preamble0 : Byte
  preamble1 : Byte
  /-- `LEN_BITS`. The rules write the 16 bits of `LEN` out (10_state R27, 40_frame_scanner R135, R136); none reads it. -/
  lenBits : Nat
  /-- `PMAX`: `PBUF` has the addresses 0 to `PMAX - 1` (10_state R31). -/
  pmax : Nat
  ckMod : Nat
  nf : Nat
  gmax : Nat
  gcols : Nat
  nt : Nat
  /-- `TMAX`: the bytes of a text register (10_state R41). -/
  tmax : Nat
  /-- `NPORTS`: the rates of a `CFGMSG` request (00_scope R7). -/
  nports : Nat
  kmax : Nat
  rateCls : Byte
  rateId : Byte
  idt : List IdRow
  layouts : List LayoutRow
  textStrip : TextStrip
deriving DecidableEq, Repr

/-- The free value of draw `draw` for register slot `slot`: what a register holds that the spec says holds no defined
value (10_state R36 to R45; log 9). It has no body: nothing can be proved of it. -/
opaque Config.freeWord (draw slot : Nat) : Word

/-- The free value that `Resolve` reads as `F[q]`, `q` 0 or 1, in an acknowledgement `(c, i)` with payload `p` whose layout
does not name that register. A function of the frame and the configuration alone, as 42_dispatch R180 says of the record
(DESIGN CHOICE, log 22). -/
opaque Config.freeAckField (cfg : Config) (c i : Byte) (p : List Byte) (q : Nat) : Word

/-- The free contents of a text register that holds no defined value (10_state R41; log 9). -/
opaque Config.freeText (draw slot : Nat) : List Byte

/-- The free value of a row index of the identity table (10_state R35, R42; log 9). -/
opaque Config.freeRow (draw slot : Nat) : Nat

/-- The free value of `REC_NAME`, a row index or `NONE` (10_state R35; log 9). -/
opaque Config.freeName (draw : Nat) : Option Nat

end Sys2Proof
end

