-- ==== Sys2Proof/Machine/Operands.lean ====
section
/-! DEFINITION. Operand computations: byte order, field reads and extension, text stripping, scaling, frame assembly. -/

namespace Sys2Proof.Machine

/-- `LEN[7:0]` (30_encoding R90). -/
def loByte (n : Half) : Byte := BitVec.ofNat 8 n.toNat

/-- `LEN[15:8]` (30_encoding R90). -/
def hiByte (n : Half) : Byte := BitVec.ofNat 8 (n.toNat / 256)

/-- The 16-bit number `{hi, lo}` (30_encoding R93: low byte first in the stream). -/
def halfOf (hi lo : Byte) : Half := BitVec.ofNat 16 (256 * hi.toNat + lo.toNat)

/-- Little-endian value of a byte sequence: the first byte is the least significant (20_memory R63, R64). -/
def leNat : List Byte → Nat
  | [] => 0
  | b :: bs => b.toNat + 256 * leNat bs

/-- `MemReadBytes(a, n)` of a payload: its bytes `a` to `a + n - 1` in payload order (20_memory R64). The caller checks
the bound first (43_field_decoder R187). -/
def memReadBytes (p : List Byte) (a n : Nat) : List Byte := (p.drop a).take n

/-- `MemRead(a, n)` of a payload, little-endian and unsigned (20_memory R64). -/
def memRead (p : List Byte) (a n : Nat) : Nat := leNat (memReadBytes p a n)

/-- `size(ty)` of a numeric type (43_field_decoder R186). -/
def numSize : NumTy → Nat
  | .u1 | .i1 | .x1 => 1
  | .u2 | .i2 | .x2 => 2
  | .u4 | .i4 | .x4 => 4

/-- Whether a numeric type is read as two's complement (30_encoding R102). -/
def numSigned : NumTy → Bool
  | .i1 | .i2 | .i4 => true
  | .u1 | .u2 | .u4 | .x1 | .x2 | .x4 => false

/-- Extension of a raw number to 32 bits: sign extension from `8 * size` bits for `I` types, zero extension for `U` and
`X` types (30_encoding R103, 43_field_decoder R188). -/
def extend (ty : NumTy) (raw : Nat) : Word :=
  if numSigned ty then (BitVec.ofNat (8 * numSize ty) raw).signExtend 32 else BitVec.ofNat 32 raw

/-- The bound check `off + sz <= n`, without wrap (43_field_decoder R187). -/
def inBounds (off sz n : Nat) : Bool := decide (off + sz ≤ n)

/-- The 32-bit value of a numeric field of type `ty` at offset `off` (43_field_decoder R188). -/
def readNumber (ty : NumTy) (p : List Byte) (off : Nat) : Word := extend ty (memRead p off (numSize ty))

/-- `s` without its longest suffix of 0x00 bytes. -/
def stripTrailing (s : List Byte) : List Byte := (s.reverse.dropWhile (fun b => b == 0)).reverse

/-- `Strip(s)` (43_field_decoder R193). -/
def strip : TextStrip → List Byte → List Byte
  | .trailing, s => stripTrailing s
  | .all, s => s.filter (fun b => b != 0)

/-- The integer a field register stands for: `toInt_s(v, 32)` for `I` types, the unsigned value otherwise
(10_state R38, 43_field_decoder R189). -/
def fieldInteger (ty : NumTy) (v : Word) : Int := if numSigned ty then v.toInt else (v.toNat : Int)

/-- The semantic value of a scaled field: the exact rational `integer / 10^k` (00_scope R13, 43_field_decoder R189). -/
def scaledValue (ty : NumTy) (k : Nat) (v : Word) : ℚ := (fieldInteger ty v : ℚ) / (10 : ℚ) ^ k

/-- The body of a frame, which the checksum covers: class, id, length low byte, length high byte, payload
(30_encoding R95, 45_poll_builder R230). -/
def frameBody (c i : Byte) (n : Half) (p : List Byte) : List Byte := [c, i, loByte n, hiByte n] ++ p

/-- The bytes of a frame in stream order (30_encoding R90). -/
def frameBytes (p0 p1 c i : Byte) (n : Half) (p : List Byte) (a b : Byte) : List Byte :=
  [p0, p1] ++ frameBody c i n p ++ [a, b]

/-- A received frame of opcode_table.json: its header word is 0xB562ccii (30_encoding R97), its length that of its
payload. -/
def tableFrame (c i : Byte) (p : List Byte) (a b : Byte) : List Byte :=
  frameBytes 0xB5 0x62 c i (BitVec.ofNat 16 p.length) p a b

end Sys2Proof.Machine
end

