-- ==== Sys2Proof/Syntax.lean ====
section
/-! DEFINITION. The instructions: one constructor per row of opcode_table.json, and the input words that carry them. -/

namespace Sys2Proof

/-- What the host offers the block in one step.
`rx` is the 11-bit RX word, `tx` the 66-bit TX word (30_encoding R118); `bytes` is a run of stream bytes offered
together, each a `BYTE` event, such as a whole frame (30_encoding R121 `feed`; log 4). -/
inductive InWord where
  | rx (w : BitVec 11)
  | tx (w : BitVec 66)
  | bytes (bs : List Byte)
deriving DecidableEq, Repr

/-- The rows of opcode_table.json. A received frame carries its payload and its two received checksum bytes `a`, `b`
(30_encoding R90); its length is the payload's. -/
inductive Instr where
  /-- `NAV-PVT` (44_messages R210). -/
  | navPvt (payload : List Byte) (a b : Byte)
  /-- `NAV-SVINFO` (44_messages R212). -/
  | navSvinfo (payload : List Byte) (a b : Byte)
  /-- `CFG-PRT` (44_messages R214). -/
  | cfgPrt (payload : List Byte) (a b : Byte)
  /-- `CFG-MSG` (44_messages R216). -/
  | cfgMsg (payload : List Byte) (a b : Byte)
  /-- `MON-VER` (44_messages R218). -/
  | monVer (payload : List Byte) (a b : Byte)
  /-- `ACK-ACK` (44_messages R220). -/
  | ackAck (payload : List Byte) (a b : Byte)
  /-- `ACK-NAK` (44_messages R220). -/
  | ackNak (payload : List Byte) (a b : Byte)
  /-- `RAW`: a frame of any identity the table above does not list (42_dispatch R174, 44_messages R221). -/
  | raw (cls id : Byte) (payload : List Byte) (a b : Byte)
  /-- `RST` (70_reset_and_hazards R280). -/
  | rst
  /-- `BYTE` (40_frame_scanner R130). -/
  | byte (d : Byte)
  /-- `BYTE.HUNT` (40_frame_scanner R131). -/
  | byteHunt (d : Byte)
  /-- `BYTE.SYNC1` (40_frame_scanner R132). -/
  | byteSync1 (d : Byte)
  /-- `BYTE.CLS` (40_frame_scanner R133). -/
  | byteCls (d : Byte)
  /-- `BYTE.ID` (40_frame_scanner R134). -/
  | byteId (d : Byte)
  /-- `BYTE.LEN0` (40_frame_scanner R135). -/
  | byteLen0 (d : Byte)
  /-- `BYTE.LEN1` (40_frame_scanner R136). -/
  | byteLen1 (d : Byte)
  /-- `BYTE.PAYLOAD` (40_frame_scanner R137). -/
  | bytePayload (d : Byte)
  /-- `BYTE.CK0` (40_frame_scanner R138). -/
  | byteCk0 (d : Byte)
  /-- `BYTE.CK1` (40_frame_scanner R139). -/
  | byteCk1 (d : Byte)
  /-- `EOC` (40_frame_scanner R140). -/
  | eoc
  /-- `BYTE+EOC` (30_encoding R118). -/
  | byteEoc (d : Byte)
  /-- `NOP` (30_encoding R118). -/
  | nop
  /-- `POLL` (45_poll_builder R231). -/
  | poll (c j : Byte)
  /-- `CFGMSG` (45_poll_builder R233): the identity `(c, j)` and the rates `r[0]` to `r[5]`. -/
  | cfgmsg (c j r0 r1 r2 r3 r4 r5 : Byte)
  /-- `TXNOP` (30_encoding R118). -/
  | txnop
deriving DecidableEq, Repr

/-- The instruction an instruction's own word stands for. The nine rows `BYTE.<PHASE>` share the word of `BYTE`
("the phase is state, not encoding"); every other row has its word to itself (log 5). -/
def Instr.wordRow : Instr → Instr
  | .navPvt p a b => .navPvt p a b
  | .navSvinfo p a b => .navSvinfo p a b
  | .cfgPrt p a b => .cfgPrt p a b
  | .cfgMsg p a b => .cfgMsg p a b
  | .monVer p a b => .monVer p a b
  | .ackAck p a b => .ackAck p a b
  | .ackNak p a b => .ackNak p a b
  | .raw c i p a b => .raw c i p a b
  | .rst => .rst
  | .byte d => .byte d
  | .byteHunt d => .byte d
  | .byteSync1 d => .byte d
  | .byteCls d => .byte d
  | .byteId d => .byte d
  | .byteLen0 d => .byte d
  | .byteLen1 d => .byte d
  | .bytePayload d => .byte d
  | .byteCk0 d => .byte d
  | .byteCk1 d => .byte d
  | .eoc => .eoc
  | .byteEoc d => .byteEoc d
  | .nop => .nop
  | .poll c j => .poll c j
  | .cfgmsg c j r0 r1 r2 r3 r4 r5 => .cfgmsg c j r0 r1 r2 r3 r4 r5
  | .txnop => .txnop

end Sys2Proof
end

