-- ==== Sys2Proof/WellFormed.lean ====
section
/-! DEFINITION. Which terms of `Instr` an encoding exists for. -/

namespace Sys2Proof

/-- The identities of the seven frame rows of opcode_table.json (30_encoding R106). `RAW` has the lowest priority: it
is any other identity (30_encoding R107). -/
def namedIdentity (c i : Byte) : Bool :=
  (c == 0x01 && i == 0x07) || (c == 0x01 && i == 0x30) || (c == 0x06 && i == 0x00) || (c == 0x06 && i == 0x01) ||
    (c == 0x0A && i == 0x04) || (c == 0x05 && i == 0x01) || (c == 0x05 && i == 0x00)

/-- The length field has 16 bits: a frame carries at most 65535 payload bytes (30_encoding R93). -/
def payloadFits (p : List Byte) : Bool := decide (p.length ≤ 65535)

/-- An instruction that some input word stands for. -/
def Instr.wellFormed : Instr → Bool
  | .navPvt p _ _ => payloadFits p
  | .navSvinfo p _ _ => payloadFits p
  | .cfgPrt p _ _ => payloadFits p
  | .cfgMsg p _ _ => payloadFits p
  | .monVer p _ _ => payloadFits p
  | .ackAck p _ _ => payloadFits p
  | .ackNak p _ _ => payloadFits p
  | .raw c i p _ _ => !namedIdentity c i && payloadFits p
  | .rst => true
  | .byte _ => true
  | .byteHunt _ => true
  | .byteSync1 _ => true
  | .byteCls _ => true
  | .byteId _ => true
  | .byteLen0 _ => true
  | .byteLen1 _ => true
  | .bytePayload _ => true
  | .byteCk0 _ => true
  | .byteCk1 _ => true
  | .eoc => true
  | .byteEoc _ => true
  | .nop => true
  | .poll _ _ => true
  | .cfgmsg _ _ _ _ _ _ _ _ => true
  | .txnop => true

end Sys2Proof
end

