-- ==== Sys2Proof/Decode.lean ====
section
/-! DEFINITION. The decoder of input words, total and refusing by name, and the encoder. -/

namespace Sys2Proof

/-- Why a run of bytes is not one whole frame of opcode_table.json. -/
inductive DecodeError where
  /-- Fewer than the eight bytes of the shortest frame (30_encoding R96). -/
  | tooShort
  /-- The first two bytes are not the preamble 0xB5 0x62 (30_encoding R91, R98). -/
  | noPreamble
  /-- The run is shorter or longer than `LEN + 8` bytes (30_encoding R96). -/
  | wrongLength
deriving DecidableEq, Repr

/-- The frame row of an identity: an exact match on all 16 bits, `RAW` when none matches (30_encoding R106, R107). -/
def frameRow (c i : Byte) (p : List Byte) (a b : Byte) : Instr :=
  if c = 0x01 ∧ i = 0x07 then .navPvt p a b
  else if c = 0x01 ∧ i = 0x30 then .navSvinfo p a b
  else if c = 0x06 ∧ i = 0x00 then .cfgPrt p a b
  else if c = 0x06 ∧ i = 0x01 then .cfgMsg p a b
  else if c = 0x0A ∧ i = 0x04 then .monVer p a b
  else if c = 0x05 ∧ i = 0x01 then .ackAck p a b
  else if c = 0x05 ∧ i = 0x00 then .ackNak p a b
  else .raw c i p a b

/-- The payload of `n` bytes and the two checksum bytes that end a frame. -/
def splitTail (n : Nat) (rest : List Byte) : Option (List Byte × Byte × Byte) :=
  match rest.drop n with
  | [a, b] => some (rest.take n, a, b)
  | _ => none

/-- A run of bytes that is one whole frame (30_encoding R90, R96). -/
def decodeFrame : List Byte → Except DecodeError Instr
  | p0 :: p1 :: c :: i :: l0 :: l1 :: rest =>
    if p0 = 0xB5 ∧ p1 = 0x62 then
      match splitTail (Machine.halfOf l1 l0).toNat rest with
      | some (p, a, b) => .ok (frameRow c i p a b)
      | none => .error .wrongLength
    else .error .noPreamble
  | _ => .error .tooShort

/-- The RX input word `{rst, in_eoc, in_valid, in_data[7:0]}` (30_encoding R118). -/
def decodeRx (w : BitVec 11) : Instr :=
  let d : Byte := w.extractLsb' 0 8
  if w.getLsbD 10 then .rst
  else match w.getLsbD 9, w.getLsbD 8 with
    | false, true => .byte d
    | true, false => .eoc
    | true, true => .byteEoc d
    | false, false => .nop

/-- The TX request word `{tx_req, tx_kind, tx_cls[7:0], tx_id[7:0], tx_rates[47:0]}`, `tx_rates[8p+7:8p]` = `r[p]`
(30_encoding R118). -/
def decodeTx (w : BitVec 66) : Instr :=
  if w.getLsbD 65 then
    if w.getLsbD 64 then
      .cfgmsg (w.extractLsb' 56 8) (w.extractLsb' 48 8) (w.extractLsb' 0 8) (w.extractLsb' 8 8) (w.extractLsb' 16 8)
        (w.extractLsb' 24 8) (w.extractLsb' 32 8) (w.extractLsb' 40 8)
    else .poll (w.extractLsb' 56 8) (w.extractLsb' 48 8)
  else .txnop

/-- The instruction an input word stands for. -/
def decode : InWord → Except DecodeError Instr
  | .rx w => .ok (decodeRx w)
  | .tx w => .ok (decodeTx w)
  | .bytes bs => decodeFrame bs

/-- The RX word of a byte with the given `in_eoc` bit: `0e1dddddddd` (30_encoding R118). -/
def byteWord (eoc : Nat) (d : Byte) : InWord := .rx (BitVec.ofNat 11 (2 ^ 9 * eoc + 2 ^ 8 + d.toNat))

/-- The TX word with `tx_req` = 1: `1tkkkkkkkkjjjjjjjj` and the rate bits, `r[5]` first (30_encoding R118). -/
def txWord (kind : Nat) (c j r5 r4 r3 r2 r1 r0 : Byte) : InWord :=
  .tx (BitVec.ofNat 66
    (2 ^ 65 + 2 ^ 64 * kind + 2 ^ 56 * c.toNat + 2 ^ 48 * j.toNat + 2 ^ 40 * r5.toNat + 2 ^ 32 * r4.toNat +
      2 ^ 24 * r3.toNat + 2 ^ 16 * r2.toNat + 2 ^ 8 * r1.toNat + r0.toNat))

/-- The word of an instruction; ignored bits are written 0 (log 18). -/
def encode : Instr → InWord
  | .navPvt p a b => .bytes (Machine.tableFrame 0x01 0x07 p a b)
  | .navSvinfo p a b => .bytes (Machine.tableFrame 0x01 0x30 p a b)
  | .cfgPrt p a b => .bytes (Machine.tableFrame 0x06 0x00 p a b)
  | .cfgMsg p a b => .bytes (Machine.tableFrame 0x06 0x01 p a b)
  | .monVer p a b => .bytes (Machine.tableFrame 0x0A 0x04 p a b)
  | .ackAck p a b => .bytes (Machine.tableFrame 0x05 0x01 p a b)
  | .ackNak p a b => .bytes (Machine.tableFrame 0x05 0x00 p a b)
  | .raw c i p a b => .bytes (Machine.tableFrame c i p a b)
  | .rst => .rx 0b10000000000#11
  | .byte d => byteWord 0 d
  | .byteHunt d => byteWord 0 d
  | .byteSync1 d => byteWord 0 d
  | .byteCls d => byteWord 0 d
  | .byteId d => byteWord 0 d
  | .byteLen0 d => byteWord 0 d
  | .byteLen1 d => byteWord 0 d
  | .bytePayload d => byteWord 0 d
  | .byteCk0 d => byteWord 0 d
  | .byteCk1 d => byteWord 0 d
  | .eoc => .rx 0b01000000000#11
  | .byteEoc d => byteWord 1 d
  | .nop => .rx 0#11
  | .poll c j => txWord 0 c j 0 0 0 0 0 0
  | .cfgmsg c j r0 r1 r2 r3 r4 r5 => txWord 1 c j r5 r4 r3 r2 r1 r0
  | .txnop => .tx 0#66

/-- The input word of a row of opcode_table.json, from the row's bits `w` in `nbits` bits (whole bytes): a 32-bit header
word `H` is the frame that begins with its four bytes, the most significant first (30_encoding R97), every later byte 0, so
`LEN` = 0 and both checksum bytes 0; 16 bits hold an RX word, 72 bits a TX word. -/
def tableInput (nbits w : Nat) : Option InWord :=
  if nbits = 32 then
    some (.bytes [BitVec.ofNat 8 (w / 2 ^ 24), BitVec.ofNat 8 (w / 2 ^ 16), BitVec.ofNat 8 (w / 2 ^ 8), BitVec.ofNat 8 w,
      0, 0, 0, 0])
  else if nbits = 16 ∧ w < 2 ^ 11 then some (.rx (BitVec.ofNat 11 w))
  else if nbits = 72 ∧ w < 2 ^ 66 then some (.tx (BitVec.ofNat 66 w))
  else none

/-- The instruction the decoder reads from a row's bits. -/
def decodeTableWord (nbits w : Nat) : Option Instr :=
  match tableInput nbits w with
  | some word =>
    match decode word with
    | .ok i => some i
    | .error _ => none
  | none => none

end Sys2Proof
end

