-- ==== Sys2Proof/Machine/Checksum.lean ====
section
/-! DEFINITION. The checksum unit: the two-byte Fletcher sum (41_checksum). -/

namespace Sys2Proof.Machine

/-- One checksum update `ck(a, b, x)` with modulus `m` = `CK_MOD`, 256 by default (41_checksum R160). The second sum uses the
new value of the first; both are kept in 8 bits (log 16). -/
def ck (m : Nat) (a b x : Byte) : Byte × Byte :=
  let a' : Byte := BitVec.ofNat 8 ((a.toNat + x.toNat) % m)
  (a', BitVec.ofNat 8 ((b.toNat + a'.toNat) % m))

/-- `cksum` continued from accumulators `ab` (41_checksum R161). -/
def cksumFrom (m : Nat) (ab : Byte × Byte) : List Byte → Byte × Byte
  | [] => ab
  | x :: xs => cksumFrom m (ck m ab.1 ab.2 x) xs

/-- `cksum(s)`: both accumulators start at 0 (41_checksum R161). -/
def cksum (m : Nat) (s : List Byte) : Byte × Byte := cksumFrom m (0, 0) s

end Sys2Proof.Machine
end

