-- ==== Sys2Proof/Machine/Tables.lean ====
section
/-! DEFINITION. The static tables: the default identity table and layouts, table access, and table validity. -/

namespace Sys2Proof.Machine

/-- The default identity table (42_dispatch R172); a name is its ASCII bytes. -/
def defaultIdt : List IdRow :=
  [⟨0x01, 0x07, [0x4E, 0x41, 0x56, 0x2D, 0x50, 0x56, 0x54], 1⟩,  -- NAV-PVT
   ⟨0x01, 0x30, [0x4E, 0x41, 0x56, 0x2D, 0x53, 0x56, 0x49, 0x4E, 0x46, 0x4F], 2⟩,  -- NAV-SVINFO
   ⟨0x06, 0x00, [0x43, 0x46, 0x47, 0x2D, 0x50, 0x52, 0x54], 3⟩,  -- CFG-PRT
   ⟨0x06, 0x01, [0x43, 0x46, 0x47, 0x2D, 0x4D, 0x53, 0x47], 4⟩,  -- CFG-MSG
   ⟨0x0A, 0x04, [0x4D, 0x4F, 0x4E, 0x2D, 0x56, 0x45, 0x52], 5⟩,  -- MON-VER
   ⟨0x05, 0x01, [0x41, 0x43, 0x4B, 0x2D, 0x41, 0x43, 0x4B], 6⟩,  -- ACK-ACK
   ⟨0x05, 0x00, [0x41, 0x43, 0x4B, 0x2D, 0x4E, 0x41, 0x4B], 7⟩]  -- ACK-NAK

/-- PositionFix, `LAYOUT[1]` (44_messages R210). -/
def positionFixFields : List Field :=
  [.num 0 0 .u4 3 .second false 0,  -- iTOW
   .num 1 4 .u2 0 .none false 0,  -- year
   .num 2 6 .u1 0 .none false 0,  -- month
   .num 3 7 .u1 0 .none false 0,  -- day
   .num 4 8 .u1 0 .none false 0,  -- hour
   .num 5 9 .u1 0 .none false 0,  -- min
   .num 6 10 .u1 0 .second false 0,  -- sec
   .num 7 11 .x1 0 .none false 0,  -- valid
   .num 8 12 .u4 9 .second false 0,  -- tAcc
   .num 9 16 .i4 9 .second false 0,  -- nano
   .num 10 20 .u1 0 .none false 0,  -- fixType
   .num 11 21 .x1 0 .none false 0,  -- flags
   .num 12 22 .x1 0 .none false 0,  -- flags2
   .num 13 23 .u1 0 .none false 0,  -- numSV
   .num 14 24 .i4 7 .degree false 0,  -- lon
   .num 15 28 .i4 7 .degree false 0,  -- lat
   .num 16 32 .i4 3 .metre false 0,  -- height
   .num 17 36 .i4 3 .metre false 0,  -- hMSL
   .num 18 40 .u4 3 .metre false 0,  -- hAcc
   .num 19 44 .u4 3 .metre false 0,  -- vAcc
   .num 20 48 .i4 3 .metrePerSecond false 0,  -- velN
   .num 21 52 .i4 3 .metrePerSecond false 0,  -- velE
   .num 22 56 .i4 3 .metrePerSecond false 0,  -- velD
   .num 23 60 .i4 3 .metrePerSecond false 0,  -- gSpeed
   .num 24 64 .i4 5 .degree false 0,  -- headMot
   .num 25 68 .u4 3 .metrePerSecond false 0,  -- sAcc
   .num 26 72 .u4 5 .degree false 0,  -- headAcc
   .num 27 76 .u2 2 .none false 0,  -- pDOP
   .num 28 84 .i4 5 .degree true 0,  -- headVeh
   .num 29 88 .i2 2 .degree true 0,  -- magDec
   .num 30 90 .u2 2 .degree true 0]  -- magAcc

/-- SatelliteInfo, the header fields of `LAYOUT[2]` (44_messages R212). -/
def satelliteInfoFields : List Field :=
  [.num 0 0 .u4 3 .second false 0,  -- iTOW
   .num 1 4 .u1 0 .none false 0,  -- numCh, the count
   .num 2 5 .x1 0 .none false 0]  -- globalFlags

/-- SatelliteInfo, the repeating group of `LAYOUT[2]` (44_messages R212). -/
def satelliteInfoGroup : Group :=
  ⟨1, 8, 12,
    [⟨0, 1, .u1, 0, .none⟩,    -- svid
     ⟨1, 5, .i1, 0, .degree⟩,  -- elevation
     ⟨2, 6, .i2, 0, .degree⟩,  -- azimuth
     ⟨3, 4, .u1, 0, .dBHz⟩]⟩   -- carrier-to-noise

/-- PortConfig, `LAYOUT[3]` (44_messages R214). -/
def portConfigFields : List Field :=
  [.num 0 0 .u1 0 .none false 0,  -- portID
   .num 1 2 .x2 0 .none false 0,  -- txReady
   .num 2 4 .x4 0 .none false 0,  -- mode
   .num 3 8 .u4 0 .bitPerSecond false 0,  -- baudRate
   .num 4 12 .x2 0 .none false 0,  -- inProtoMask
   .num 5 14 .x2 0 .none false 0,  -- outProtoMask
   .num 6 16 .x2 0 .none false 0]  -- flags

/-- MessageRateConfig, `LAYOUT[4]` (44_messages R216). -/
def messageRateConfigFields : List Field :=
  [.num 0 0 .u1 0 .none false 0,  -- msgClass
   .num 1 1 .u1 0 .none false 0,  -- msgID
   .num 2 2 .u1 0 .none false 0,  -- rate on port 0
   .num 3 3 .u1 0 .none false 0,  -- rate on port 1
   .num 4 4 .u1 0 .none false 0,  -- rate on port 2
   .num 5 5 .u1 0 .none false 0,  -- rate on port 3
   .num 6 6 .u1 0 .none false 0,  -- rate on port 4
   .num 7 7 .u1 0 .none false 0]  -- rate on port 5

/-- VersionInfo, `LAYOUT[5]` (44_messages R218). -/
def versionInfoFields : List Field :=
  [.text 0 0 30 0 .none false 0,   -- swVersion
   .text 1 30 10 0 .none false 0]  -- hwVersion

/-- AcknowledgeAck and AcknowledgeNak, `LAYOUT[6]` = `LAYOUT[7]` (44_messages R220). -/
def acknowledgeFields : List Field :=
  [.num 0 0 .u1 0 .none false 0,  -- clsID
   .num 1 1 .u1 0 .none false 0]  -- msgID

/-- The default layout table (44_messages R210 to R220). -/
def defaultLayouts : List LayoutRow :=
  [⟨1, ⟨positionFixFields, none⟩⟩, ⟨2, ⟨satelliteInfoFields, some satelliteInfoGroup⟩⟩, ⟨3, ⟨portConfigFields, none⟩⟩,
   ⟨4, ⟨messageRateConfigFields, none⟩⟩, ⟨5, ⟨versionInfoFields, none⟩⟩, ⟨6, ⟨acknowledgeFields, none⟩⟩,
   ⟨7, ⟨acknowledgeFields, none⟩⟩]

/-- The configuration with the values this hardware takes (00_scope R9; log 17). -/
def defaultConfig : Config where
  preamble0 := 0xB5
  preamble1 := 0x62
  lenBits := 16
  pmax := 65535
  ckMod := 256
  nf := 32
  gmax := 255
  gcols := 4
  nt := 2
  tmax := 30
  nports := 6
  kmax := 9
  rateCls := 0x06
  rateId := 0x01
  idt := defaultIdt
  layouts := defaultLayouts
  textStrip := .trailing

/-- The alternative satellite message of 44_messages R213, `NAV-SAT` (0x01, 0x35): the count at offset 5, and the members of an
item where that rule puts them. The rule names no other header field. -/
def navSatLayout : Layout :=
  ⟨[.num 1 5 .u1 0 .none false 0],  -- the count
   some ⟨1, 8, 12,
    [⟨0, 1, .u1, 0, .none⟩,    -- svid
     ⟨1, 3, .i1, 0, .degree⟩,  -- elevation
     ⟨2, 4, .i2, 0, .degree⟩,  -- azimuth
     ⟨3, 2, .u1, 0, .dBHz⟩]⟩⟩  -- carrier-to-noise

/-- The default configuration with `NAV-SAT` in the place of `NAV-SVINFO` (44_messages R213). -/
def navSatConfig : Config :=
  { defaultConfig with
    idt := defaultIdt.set 1 ⟨0x01, 0x35, [0x4E, 0x41, 0x56, 0x2D, 0x53, 0x41, 0x54], 2⟩
    layouts := defaultLayouts.set 1 ⟨2, navSatLayout⟩ }

/-- `LAYOUT[t]` (20_memory R60). -/
def layoutOf (cfg : Config) (t : Nat) : Option Layout := (cfg.layouts.find? (fun r => r.tag == t)).map (·.layout)

/-- Row search from row number `k` on. -/
def lookupFrom (c i : Byte) (k : Nat) : List IdRow → Option (Nat × IdRow)
  | [] => none
  | r :: rs => if r.cls = c ∧ r.id = i then some (k, r) else lookupFrom c i (k + 1) rs

/-- `lookup(c, i)`: the row number and the row of an identity, `none` for `NOTFOUND` (42_dispatch R173). -/
def lookup (cfg : Config) (c i : Byte) : Option (Nat × IdRow) := lookupFrom c i 0 cfg.idt

/-- `resolveMessageName(c, i)`: `(found, name)` (42_dispatch R177). -/
def resolveMessageName (cfg : Config) (c i : Byte) : Bool × List Byte :=
  match lookup cfg c i with
  | some (_, row) => (true, row.name)
  | none => (false, [])

/-- The human-readable name of a record, `IDT[REC_NAME].name` (10_state R35). -/
def rowName (cfg : Config) (name : Option Nat) : Option (List Byte) :=
  name.bind (fun r => (cfg.idt[r]?).map (·.name))

/-- The descriptor of numeric field `F[q]` in the layout of tag `t`: its type, scale exponent and unit (10_state R38). -/
def fieldDescriptor (cfg : Config) (t : Nat) (q : Fin 32) : Option (NumTy × Nat × FieldUnit) :=
  (layoutOf cfg t).bind (fun l => l.fields.findSome? (fun f =>
    match f with
    | .num dst _ ty k unit _ _ => if dst = q then some (ty, k, unit) else none
    | .text _ _ _ _ _ _ _ => none))

/-- The semantic value of register value `v` as field `F[q]` of a record with tag `t` (10_state R38). -/
def semanticValue (cfg : Config) (t : Nat) (q : Fin 32) (v : Word) : Option ℚ :=
  (fieldDescriptor cfg t q).map (fun d => scaledValue d.1 d.2.1 v)

/-- The descriptor of arena column `c` in the layout of tag `t`: its type, scale exponent and unit (30_encoding R105). -/
def columnDescriptor (cfg : Config) (t : Nat) (c : Fin 4) : Option (NumTy × Nat × FieldUnit) :=
  (layoutOf cfg t).bind (fun l => l.group.bind (fun g =>
    (g.cols.find? (fun d => d.col == c)).map (fun d => (d.ty, d.k, d.unit))))

/-- The semantic value of cell value `v` as `G[r][c]` of a record with tag `t`: column values carry their scale exactly as
field registers do (43_field_decoder R196, R189). -/
def semanticCell (cfg : Config) (t : Nat) (c : Fin 4) (v : Word) : Option ℚ :=
  (columnDescriptor cfg t c).map (fun d => scaledValue d.1 d.2.1 v)

/-- No element stands twice. -/
def allDistinct {α : Type} [BEq α] : List α → Bool
  | [] => true
  | a :: l => !l.contains a && allDistinct l

/-- The payload offset of a field's first byte. -/
def fieldOff : Field → Nat
  | .num _ off _ _ _ _ _ => off
  | .text _ off _ _ _ _ _ => off

/-- `size(ty)` of a field (43_field_decoder R186). -/
def fieldSize : Field → Nat
  | .num _ _ ty _ _ _ _ => numSize ty
  | .text _ _ len _ _ _ _ => len

/-- The scale exponent of a field. -/
def fieldScale : Field → Nat
  | .num _ _ _ k _ _ _ => k
  | .text _ _ _ k _ _ _ => k

/-- The `opt` flag of a field. -/
def fieldOpt : Field → Bool
  | .num _ _ _ _ _ opt _ => opt
  | .text _ _ _ _ _ opt _ => opt

/-- The destinations of a layout's fields: `F[n]` as `(false, n)`, `T[j]` as `(true, j)`. -/
def fieldDst : Field → Bool × Nat
  | .num dst _ _ _ _ _ _ => (false, dst.val)
  | .text dst _ _ _ _ _ _ => (true, dst.val)

/-- Items 3 and 4 of 42_dispatch R176 for one field descriptor. That item 3's "every descriptor" means the field descriptors
and not the column descriptors of a group is the model's choice (DESIGN CHOICE, log 21). -/
def fieldValid (cfg : Config) (f : Field) : Bool :=
  decide (fieldOff f + fieldSize f ≤ 65535) && decide (fieldScale f ≤ cfg.kmax) &&
    match f with
    | .num dst _ _ _ _ _ _ => decide (dst.val < cfg.nf)
    | .text dst _ len _ _ _ _ => decide (dst.val < cfg.nt) && decide (1 ≤ len) && decide (len ≤ cfg.tmax)

/-- Item 5 of 42_dispatch R176: non-decreasing offsets in list order. -/
def offsetsRise : List Field → Bool
  | f :: g :: fs => decide (fieldOff f ≤ fieldOff g) && offsetsRise (g :: fs)
  | _ => true

/-- Item 6 of 42_dispatch R176: after an optional field only optional fields. -/
def optionalsLast : List Field → Bool
  | [] => true
  | f :: fs => (!fieldOpt f || fs.all fieldOpt) && optionalsLast fs

/-- A `U1` header field with `k = 0` and `opt = 0` whose destination is `F[q]` (42_dispatch R176 item 7). -/
def isCountField (q : Fin 32) : Field → Bool
  | .num dst _ ty k _ opt _ => dst == q && ty == .u1 && k == 0 && !opt
  | .text _ _ _ _ _ _ _ => false

/-- Item 7 of 42_dispatch R176. It bounds no column's scale exponent, and item 3 is read of field descriptors only: a column
with `k > KMAX` leaves the tables valid (DESIGN CHOICE, log 21). -/
def groupValid (cfg : Config) (fields : List Field) (g : Group) : Bool :=
  fields.any (isCountField g.cnt) && decide (1 ≤ g.item) &&
    fields.all (fun f => decide (fieldOff f + fieldSize f ≤ g.hdr) && !fieldOpt f) &&
    g.cols.all (fun c => decide (c.col.val < cfg.gcols) && decide (c.ioff + numSize c.ty ≤ g.item)) &&
    allDistinct (g.cols.map (·.col))

/-- Items 3 to 7 of 42_dispatch R176 for one layout. -/
def layoutValid (cfg : Config) (l : Layout) : Bool :=
  allDistinct (l.fields.map fieldDst) && l.fields.all (fieldValid cfg) && offsetsRise l.fields && optionalsLast l.fields &&
    match l.group with
    | none => true
    | some g => groupValid cfg l.fields g

/-- Items 1 and 2 of 42_dispatch R176. -/
def idtValid (cfg : Config) : Bool :=
  allDistinct (cfg.idt.map (fun r => (r.cls, r.id))) &&
    cfg.idt.all (fun r => decide (r.tag ≤ 7) && (r.tag == 0 || (layoutOf cfg r.tag).isSome))

/-- Item 8 of 42_dispatch R176. -/
def sizesValid (cfg : Config) : Bool :=
  decide (cfg.nf ≤ 32) && decide (cfg.nt ≤ 2) && decide (cfg.gcols ≤ 4) && decide (255 ≤ cfg.gmax)

/-- `Valid(cfg)`: the eight conditions of 42_dispatch R176 (70_reset_and_hazards R281). -/
def tablesValid (cfg : Config) : Bool :=
  idtValid cfg && cfg.layouts.all (fun r => layoutValid cfg r.layout) && sizesValid cfg

end Sys2Proof.Machine
end

