-- ==== Sys2Proof/Machine/State.lean ====
section
/-! DEFINITION. The state of the block, the events it puts out, its faults and refusals, and the state after reset. -/

namespace Sys2Proof.Machine

/-- `MODE` (10_state R22). -/
inductive Mode where
  | run | halt
deriving DecidableEq, Repr

/-- `PHASE`: which byte of a frame the RX agent expects next (10_state R23). -/
inductive Phase where
  | hunt | sync1 | cls | id | len0 | len1 | payload | ck0 | ck1
deriving DecidableEq, Repr

/-- Record variants (30_encoding R112). -/
inductive Variant where
  | rawRecord | positionFix | satelliteInfo | portConfig | messageRateConfig | versionInfo | acknowledgeAck
  | acknowledgeNak
deriving DecidableEq, Repr

/-- `PBUF`: the bytes that differ from what an unlisted address reads as, addresses strictly rising (20_memory R60, R61). -/
abbrev Memory := List Host.Cell

/-- One numeric field of a record: register number, register value, and whether it was read from the payload
(30_encoding R114, 10_state R37). -/
structure FieldVal where
  reg : Fin 32
  value : Word
  present : Bool
deriving DecidableEq, Repr

/-- One text field of a record: the bytes held after stripping (30_encoding R114). -/
structure TextVal where
  reg : Fin 2
  bytes : List Byte
deriving DecidableEq, Repr

/-- What the decoder delivers of a payload: the fields, the texts, and the rows of the group. A row has `GCOLS` cells;
a cell that no column of the layout names holds no defined value and is absent (93_implementation_defined B4). -/
structure Decoded where
  fields : List FieldVal
  texts : List TextVal
  rows : List (List (Option Word))
deriving DecidableEq, Repr

/-- `ack_found` and `ack_name` of an acknowledgement record (42_dispatch R178). -/
inductive AckName where
  | found (row : Nat)
  | notFound
deriving DecidableEq, Repr

/-- The content of a `RECORD` event (30_encoding R114): tag 0, and tags 1 to 7. The name is a row of the identity table;
`ack` is there for tags 6 and 7. -/
inductive Record where
  | raw (cls id : Byte) (len : Half) (name : Option Nat) (payload : List Byte)
  | decoded (variant : Variant) (cls id : Byte) (len : Half) (name : Nat) (body : Decoded) (ack : Option AckName)
deriving DecidableEq, Repr

/-- The code and info of an `ERR` event (60_exceptions R245, 10_state R44). -/
inductive ErrInfo where
  | incompleteFrame
  | checksumError (cls id : Byte) (len : Half) (rxa rxb cka ckb : Byte)
  | truncatedPayload (cls id : Byte) (len : Half)
  | groupSizeMismatch (cls id : Byte) (len : Half)
  | configFault
deriving DecidableEq, Repr

/-- Output events (00_scope R7, 30_encoding R114). -/
inductive OutEvent where
  | rawframe (bytes : List Byte)
  | record (r : Record)
  | err (e : ErrInfo)
  | txframe (bytes : List Byte)
deriving DecidableEq, Repr

/-- The record registers (10_state R33 to R42). -/
structure RecRegs where
  /-- `REC_TAG` (R33). -/
  tag : BitVec 4
  /-- `REC_CLS` (R34). -/
  cls : Byte
  /-- `REC_ID` (R34). -/
  id : Byte
  /-- `REC_LEN` (R34). -/
  len : Half
  /-- `REC_NAME`, a row index or `NONE` (R35). -/
  name : Option Nat
  /-- `F[0]` to `F[31]` (R36). -/
  f : Vector Word 32
  /-- `FVALID` (R37). -/
  fvalid : BitVec 32
  /-- `FPRESENT` (R37). -/
  fpresent : BitVec 32
  /-- `GCNT` (R39). -/
  gcnt : Byte
  /-- `G[r][c]` (R40). -/
  g : Vector (Vector Word 4) 255
  /-- `T[j]`, the bytes held (R41). -/
  t : Vector (List Byte) 2
  /-- `TLEN[j]` (R41). -/
  tlen : Vector (BitVec 5) 2
  /-- `TVALID` (R41). -/
  tvalid : BitVec 2
  /-- `ACK_FOUND` (R42). -/
  ackFound : Bool
  /-- `ACK_NAME` (R42). -/
  ackName : Nat
deriving DecidableEq, Repr

/-- The error registers (10_state R43, R44). -/
structure ErrRegs where
  /-- `ERR_CODE` (R43). -/
  code : BitVec 3
  /-- `ERR_CLS` (R44). -/
  cls : Byte
  /-- `ERR_ID` (R44). -/
  id : Byte
  /-- `ERR_LEN` (R44). -/
  len : Half
  /-- `ERR_RXA` (R44). -/
  rxa : Byte
  /-- `ERR_RXB` (R44). -/
  rxb : Byte
  /-- `ERR_CKA` (R44). -/
  cka : Byte
  /-- `ERR_CKB` (R44). -/
  ckb : Byte
deriving DecidableEq, Repr

/-- The machine. `mode` to `err` are the spec's registers and memory (10_state R22 to R44); `cfg` and `cfgIn` are the
configuration in force and the one the host presents (log 3); `inq`, `out` and `draws` are the model's own: the input the
host has offered (log 1), the output events so far (log 2), and the counter of free values (log 9). -/
structure State where
  mode : Mode
  phase : Phase
  cnt : Half
  cls : Byte
  id : Byte
  len : Half
  cka : Byte
  ckb : Byte
  rxa : Byte
  pbuf : Memory
  record : RecRegs
  err : ErrRegs
  cfg : Config
  cfgIn : Config
  inq : List InWord
  out : List OutEvent
  draws : Nat
deriving DecidableEq, Repr

/-- Where the machine stops. No run from reset reaches either (20_memory R69, 42_dispatch R176). -/
inductive Fault where
  /-- Raised by a `PAYLOAD` byte when `CNT` is at or above `PMAX`, an address `PBUF` does not have (10_state R31). Safe: the
  spec gives no such access an effect (log 13). -/
  | pbufAddress
  /-- Raised when a valid frame is dispatched in mode `RUN` under a row whose tag or layout breaks 42_dispatch R176. Safe:
  the block does not decode with tables known to be bad (60_exceptions R262; log 14). -/
  | invalidTables
deriving DecidableEq, Repr

/-- Why a step refuses. -/
inductive Refusal where
  /-- Raised by an arm of `exec` whose instruction has no meaning; no arm is left in that case. Safe. -/
  | notModelled (mnemonic : String)
deriving DecidableEq, Repr

/-- What a meaning answers. -/
abbrev Res := Host.Outcome State Fault Refusal

/-- The record registers at reset: the spec gives them no value; the model names 0, `NONE` and empty
(DESIGN CHOICE, unsafe; log 6). -/
def RecRegs.reset : RecRegs where
  tag := 0
  cls := 0
  id := 0
  len := 0
  name := none
  f := Vector.replicate 32 0
  fvalid := 0
  fpresent := 0
  gcnt := 0
  g := Vector.replicate 255 (Vector.replicate 4 0)
  t := Vector.replicate 2 []
  tlen := Vector.replicate 2 0
  tvalid := 0
  ackFound := false
  ackName := 0

/-- The error registers at reset: the spec gives them no value; the model names 0 (DESIGN CHOICE, unsafe; log 7). -/
def ErrRegs.reset : ErrRegs where
  code := 0
  cls := 0
  id := 0
  len := 0
  rxa := 0
  rxb := 0
  cka := 0
  ckb := 0

/-- The machine right after `RST` with the default configuration (70_reset_and_hazards R280, R281, R283), with no input
offered yet and no output given. -/
def State.reset : State where
  mode := if tablesValid defaultConfig then .run else .halt
  phase := .hunt
  cnt := 0
  cls := 0
  id := 0
  len := 0
  cka := 0
  ckb := 0
  rxa := 0
  pbuf := []
  record := RecRegs.reset
  err := ErrRegs.reset
  cfg := defaultConfig
  cfgIn := defaultConfig
  inq := []
  out := []
  draws := 0

end Sys2Proof.Machine
end

