-- ==== Sys2Proof/Machine/Flags.lean ====
section
/-! DEFINITION. The four predicates (10_state R32) and the numeric codes (10_state R22, R23; 30_encoding R112; 60_exceptions R245). -/

namespace Sys2Proof.Machine

/-- `INFRAME`: `PHASE != HUNT`. -/
def inFrame (s : State) : Bool := s.phase != .hunt

/-- `LENZERO`: `LEN = 0` after the `LEN1` write of the high byte `b`. -/
def lenZero (b : Byte) (s : State) : Bool := halfOf b (loByte s.len) == 0

/-- `LASTBYTE`: `CNT + 1 = LEN`, with `CNT` before the increment and no wrap (40_frame_scanner R137). -/
def lastByte (s : State) : Bool := s.cnt.toNat + 1 == s.len.toNat

/-- `CKMATCH`: both received checksum bytes equal the computed ones (41_checksum R163). -/
def ckMatch (b : Byte) (s : State) : Bool := s.rxa == s.cka && b == s.ckb

/-- The code of a mode (10_state R22). -/
def modeCode : Mode → BitVec 1
  | .run => 0
  | .halt => 1

/-- The code of a phase (10_state R23). -/
def phaseCode : Phase → BitVec 4
  | .hunt => 0
  | .sync1 => 1
  | .cls => 2
  | .id => 3
  | .len0 => 4
  | .len1 => 5
  | .payload => 6
  | .ck0 => 7
  | .ck1 => 8

/-- The tag of a variant (30_encoding R112). -/
def variantTag : Variant → BitVec 4
  | .rawRecord => 0
  | .positionFix => 1
  | .satelliteInfo => 2
  | .portConfig => 3
  | .messageRateConfig => 4
  | .versionInfo => 5
  | .acknowledgeAck => 6
  | .acknowledgeNak => 7

/-- The variant of a tag; tags above 7 name none (30_encoding R112). -/
def variantOf : Nat → Option Variant
  | 0 => some .rawRecord
  | 1 => some .positionFix
  | 2 => some .satelliteInfo
  | 3 => some .portConfig
  | 4 => some .messageRateConfig
  | 5 => some .versionInfo
  | 6 => some .acknowledgeAck
  | 7 => some .acknowledgeNak
  | _ => none

/-- The code of an error (60_exceptions R245). -/
def errCode : ErrInfo → BitVec 3
  | .incompleteFrame => 1
  | .checksumError _ _ _ _ _ _ _ => 2
  | .truncatedPayload _ _ _ => 3
  | .groupSizeMismatch _ _ _ => 4
  | .configFault => 5

end Sys2Proof.Machine
end

