-- ==== Sys2Proof/Machine/Ops.lean ====
section
/-! DEFINITION. The shared operations: the payload buffer, output, free registers, and reporting an error. -/

namespace Sys2Proof.Machine

/-- What an address of `PBUF` that nothing has written reads as. The spec leaves it open (10_state R31) and allows zeros
(93_implementation_defined B2); DESIGN CHOICE, unsafe, log 8. -/
def unlistedByte : Byte := 0

/-- `PBUF[a]`. -/
def pbufRead : Memory → Nat → Byte
  | [], _ => unlistedByte
  | (k, v) :: m, a => if k = a then v else pbufRead m a

/-- `PBUF[a] <- b`, keeping the canonical form (20_memory R70). -/
def pbufWrite : Memory → Nat → Byte → Memory
  | [], a, b => if b = unlistedByte then [] else [(a, b)]
  | (k, v) :: m, a, b =>
    if k < a then (k, v) :: pbufWrite m a b
    else if k = a then (if b = unlistedByte then m else (a, b) :: m)
    else if b = unlistedByte then (k, v) :: m else (a, b) :: (k, v) :: m

/-- `PBUF[0 .. n-1]` in payload order (20_memory R61). -/
def pbufBytes (m : Memory) (n : Nat) : List Byte := (List.range n).map (pbufRead m)

/-- Canonical form from address `lo` on, in an address space of `size` bytes: addresses strictly rising and inside the
address space, no byte equal to an unlisted one. -/
def memoryWfFrom (size lo : Nat) : Memory → Bool
  | [] => true
  | (k, v) :: m => decide (lo ≤ k) && decide (k < size) && v != unlistedByte && memoryWfFrom size (k + 1) m

/-- The canonical form of a `PBUF` of `size` = `PMAX` bytes. -/
def Memory.wf (size : Nat) (m : Memory) : Bool := memoryWfFrom size 0 m

/-- The vector of the values of `f` at 0 to `n - 1`. -/
def tabulate {α : Type} (n : Nat) (f : Nat → α) : Vector α n := ⟨((List.range n).map f).toArray, by simp⟩

/-- The bit mask with exactly the bits of the list set. -/
def maskOf (w : Nat) : List Nat → BitVec w
  | [] => 0
  | k :: ks => BitVec.twoPow w k ||| maskOf w ks

/-- Go on with the next state, or stop. -/
def andThen (r : Res) (f : State → Res) : Res :=
  match r with
  | .next s => f s
  | .fault e => .fault e
  | .refused e => .refused e

/-- `emit E`: append an output event (00_scope R12). -/
def emit (e : OutEvent) (s : State) : State := { s with out := s.out ++ [e] }

/-- `F[q]` when it holds no defined value (10_state R36). -/
def freeF (draw q : Nat) : Word := Config.freeWord draw q

/-- `G[r][c]` when it holds no defined value (10_state R40). -/
def freeG (draw r c : Nat) : Word := Config.freeWord draw (32 + 4 * r + c)

/-- `T[j]` when it holds no defined value: at most `TMAX` bytes, here `tm` (10_state R41). -/
def freeT (tm draw j : Nat) : List Byte := (Config.freeText draw j).take tm

/-- The record registers, with texts of at most `tm` bytes, when all of them hold no defined value (10_state R45,
42_dispatch R170; log 9). -/
def freeRec (tm draw : Nat) : RecRegs where
  tag := (Config.freeWord draw 2000).setWidth 4
  cls := (Config.freeWord draw 2001).setWidth 8
  id := (Config.freeWord draw 2002).setWidth 8
  len := (Config.freeWord draw 2003).setWidth 16
  name := Config.freeName draw
  f := tabulate 32 (freeF draw)
  fvalid := Config.freeWord draw 2004
  fpresent := Config.freeWord draw 2005
  gcnt := (Config.freeWord draw 2006).setWidth 8
  g := tabulate 255 (fun r => tabulate 4 (freeG draw r))
  t := tabulate 2 (freeT tm draw)
  tlen := tabulate 2 (fun j => BitVec.ofNat 5 (freeT tm draw j).length)
  tvalid := (Config.freeWord draw 2007).setWidth 2
  ackFound := (Config.freeWord draw 2008).getLsbD 0
  ackName := Config.freeRow draw 0

/-- The error registers when all of them hold no defined value (10_state R45; log 9). -/
def freeErr (draw : Nat) : ErrRegs where
  code := (Config.freeWord draw 2010).setWidth 3
  cls := (Config.freeWord draw 2011).setWidth 8
  id := (Config.freeWord draw 2012).setWidth 8
  len := (Config.freeWord draw 2013).setWidth 16
  rxa := (Config.freeWord draw 2014).setWidth 8
  rxb := (Config.freeWord draw 2015).setWidth 8
  cka := (Config.freeWord draw 2016).setWidth 8
  ckb := (Config.freeWord draw 2017).setWidth 8

/-- The error registers after an error (10_state R43, R44; 60_exceptions R255). `IncompleteFrame` and `ConfigFault` write
`ERR_CODE` alone (log 12); a decode error writes three info registers and leaves the other four with no defined value. -/
def errRegsAfter (draw : Nat) (old : ErrRegs) (e : ErrInfo) : ErrRegs :=
  match e with
  | .incompleteFrame => { old with code := errCode e }
  | .checksumError c i n ra rb ca cb => ⟨errCode e, c, i, n, ra, rb, ca, cb⟩
  | .truncatedPayload c i n => { freeErr draw with code := errCode e, cls := c, id := i, len := n }
  | .groupSizeMismatch c i n => { freeErr draw with code := errCode e, cls := c, id := i, len := n }
  | .configFault => { old with code := errCode e }

/-- How many free values an error takes. -/
def errDraws : ErrInfo → Nat
  | .incompleteFrame => 0
  | .checksumError _ _ _ _ _ _ _ => 0
  | .truncatedPayload _ _ _ => 1
  | .groupSizeMismatch _ _ _ => 1
  | .configFault => 0

/-- Taking an error, the block's only exception entry (60_exceptions R255): write `ERR_CODE` and the info registers and emit
`ERR`. `PHASE` and `MODE` are set by the rule that raises it. There is no return operation (60_exceptions R256): the next
input event is handled by the ordinary rule of the phase. -/
def raiseErr (e : ErrInfo) (s : State) : State :=
  emit (.err e) { s with err := errRegsAfter s.draws s.err e, draws := s.draws + errDraws e }

end Sys2Proof.Machine
end

