-- ==== Sys2Proof/Machine/FieldDecoder.lean ====
section
/-! DEFINITION. FieldDecoder: fields, texts and the repeating group of a payload (43_field_decoder). -/

namespace Sys2Proof.Machine

/-- The two ways decoding ends without a record (43_field_decoder R185). -/
inductive DecodeFail where
  | truncated
  | groupSize
deriving DecidableEq, Repr

/-- The fields and texts of a layout read from payload `p`, in list order; `none` at the first mandatory field that is not
in bounds (43_field_decoder R185, R187, R188, R190, R192). -/
def decodeFields (st : TextStrip) (p : List Byte) : List Field → Option (List FieldVal × List TextVal)
  | [] => some ([], [])
  | .num dst off ty _ _ opt dflt :: fs =>
    if inBounds off (numSize ty) p.length then
      (decodeFields st p fs).map (fun r => (⟨dst, readNumber ty p off, true⟩ :: r.1, r.2))
    else if opt then (decodeFields st p fs).map (fun r => (⟨dst, dflt, false⟩ :: r.1, r.2))
    else none
  | .text dst off len _ _ opt _ :: fs =>
    if inBounds off len p.length then
      (decodeFields st p fs).map (fun r => (r.1, ⟨dst, strip st (memReadBytes p off len)⟩ :: r.2))
    else if opt then (decodeFields st p fs).map (fun r => (r.1, ⟨dst, []⟩ :: r.2))
    else none

/-- The value of `F[q]` among decoded fields. -/
def fieldValue (fields : List FieldVal) (q : Nat) : Option Word :=
  (fields.find? (fun v => v.reg.val == q)).map (·.value)

/-- The bytes of text register `T[j]` among decoded texts. -/
def textValue (texts : List TextVal) (j : Nat) : Option (List Byte) :=
  (texts.find? (fun v => v.reg.val == j)).map (·.bytes)

/-- `count = F[L.group.cnt]` (43_field_decoder R194). Table validity makes the count field a mandatory one, so it is
there. -/
def groupCount (g : Group) (fields : List FieldVal) : Nat :=
  match fieldValue fields g.cnt.val with
  | some v => v.toNat
  | none => 0

/-- Cell `c` of item `r`, absent when no column names `c` (43_field_decoder R196). -/
def unpackCell (g : Group) (p : List Byte) (r c : Nat) : Option Word :=
  (g.cols.find? (fun d => d.col.val == c)).map (fun d => readNumber d.ty p (g.hdr + r * g.item + d.ioff))

/-- `UnpackItem(g, r)`: the `GCOLS` cells of row `r` (43_field_decoder R196). -/
def unpackItem (gcols : Nat) (g : Group) (p : List Byte) (r : Nat) : List (Option Word) :=
  (List.range gcols).map (unpackCell g p r)

/-- `Decode(L, n, P)` with `n` the length of `p` (43_field_decoder R185). -/
def decodePayload (cfg : Config) (l : Layout) (p : List Byte) : Except DecodeFail Decoded :=
  match decodeFields cfg.textStrip p l.fields with
  | none => .error .truncated
  | some (fields, texts) =>
    match l.group with
    | none => .ok ⟨fields, texts, []⟩
    | some g =>
      if p.length = g.hdr + groupCount g fields * g.item then
        .ok ⟨fields, texts, (List.range (groupCount g fields)).map (unpackItem cfg.gcols g p)⟩
      else .error .groupSize

/-- The field registers after a record: the decoded values, and `unnamed` where the layout names no field: a value the spec
does not define (10_state R36; log 9, log 22). -/
def fieldFile (unnamed : Nat → Word) (b : Decoded) : Vector Word 32 :=
  tabulate 32 (fun q => (fieldValue b.fields q).getD (unnamed q))

/-- The group arena after a record (10_state R40; log 9). -/
def arena (draw : Nat) (b : Decoded) : Vector (Vector Word 4) 255 :=
  tabulate 255 (fun r => tabulate 4 (fun c => (((b.rows[r]?).bind (fun row => row[c]?)).join).getD (freeG draw r c)))

/-- The text registers after a record (10_state R41; log 9). -/
def textFile (tm draw : Nat) (b : Decoded) : Vector (List Byte) 2 :=
  tabulate 2 (fun j => (textValue b.texts j).getD (freeT tm draw j))

/-- The record registers a decoded body writes, `f` being its field registers (`fieldFile`) (43_field_decoder R185; 10_state R36 to R41). -/
def loadBody (tm draw : Nat) (f : Vector Word 32) (b : Decoded) (r : RecRegs) : RecRegs :=
  { r with
    f := f
    fvalid := maskOf 32 (b.fields.map (·.reg.val))
    fpresent := maskOf 32 ((b.fields.filter (·.present)).map (·.reg.val))
    gcnt := BitVec.ofNat 8 b.rows.length
    g := arena draw b
    t := textFile tm draw b
    tlen := tabulate 2 (fun j => BitVec.ofNat 5 ((textValue b.texts j).getD (freeT tm draw j)).length)
    tvalid := maskOf 2 (b.texts.map (·.reg.val)) }

end Sys2Proof.Machine
end

