-- ==== Sys2Proof/Machine/Dispatcher.lean ====
section
/-! DEFINITION. MessageDispatcher: the work of a valid frame (42_dispatch). -/

namespace Sys2Proof.Machine

/-- What `F[q]` holds after a record of variant `v` whose layout does not name it. `Resolve` reads `F[0]` and `F[1]` of an
acknowledgement and its result goes into the `RECORD`; the spec does not say what it reads there when the layout, valid
under R176, does not name them. The model's choice is a free value that the frame and the configuration fix, so that equal
frames give equal records (42_dispatch R180; DESIGN CHOICE, log 22). Any other register takes a fresh free value
(log 9). -/
def unnamedField (cfg : Config) (v : Variant) (c i : Byte) (p : List Byte) (draw q : Nat) : Word :=
  match v with
  | .acknowledgeAck | .acknowledgeNak => if q < 2 then Config.freeAckField cfg c i p q else freeF draw q
  | .rawRecord | .positionFix | .satelliteInfo | .portConfig | .messageRateConfig | .versionInfo => freeF draw q

/-- The field registers after a decoded record of variant `v` (10_state R36). -/
def recordFile (v : Variant) (c i : Byte) (p : List Byte) (b : Decoded) (s : State) : Vector Word 32 :=
  fieldFile (unnamedField s.cfg v c i p s.draws) b

/-- `Resolve(F[0], F[1])` of an acknowledgement (42_dispatch R178). -/
def resolveAck (cfg : Config) (f : Vector Word 32) : AckName :=
  match lookup cfg (f[0].setWidth 8) (f[1].setWidth 8) with
  | some (r, _) => .found r
  | none => .notFound

/-- The acknowledgement part of a record: for tags 6 and 7 only (42_dispatch R170). -/
def ackPart (cfg : Config) (v : Variant) (f : Vector Word 32) : Option AckName :=
  match v with
  | .acknowledgeAck | .acknowledgeNak => some (resolveAck cfg f)
  | .rawRecord | .positionFix | .satelliteInfo | .portConfig | .messageRateConfig | .versionInfo => none

/-- `ACK_FOUND` and `ACK_NAME` after a record (10_state R42): no defined value but for tags 6 and 7, and no defined
`ACK_NAME` when the identity is not found. -/
def ackRegs (draw : Nat) (ack : Option AckName) (r : RecRegs) : RecRegs :=
  match ack with
  | some (.found n) => { r with ackFound := true, ackName := n }
  | some .notFound => { r with ackFound := false, ackName := Config.freeRow draw 0 }
  | none => { r with ackFound := (Config.freeWord draw 2008).getLsbD 0, ackName := Config.freeRow draw 0 }

/-- Delivery of a `RawRecord` under row `name` or none (42_dispatch R174, R175). The registers `F`, `G`, `T` are not written
(log 10). -/
def deliverRaw (c i : Byte) (n : Half) (p : List Byte) (name : Option Nat) (s : State) : State :=
  emit (.record (.raw c i n name p))
    { s with
      record := ackRegs s.draws none
        { s.record with
          tag := variantTag .rawRecord, cls := c, id := i, len := n, name := name, fvalid := 0, fpresent := 0, gcnt := 0,
          tvalid := 0 }
      draws := s.draws + 1 }

/-- Delivery of a record of variant `v` under row `r`, decoded from payload `p` (42_dispatch R170). What `Resolve` reads when
the layout does not name `F[0]` or `F[1]` is the model's choice (`unnamedField`; DESIGN CHOICE, log 22). -/
def deliverDecoded (v : Variant) (c i : Byte) (n : Half) (p : List Byte) (r : Nat) (b : Decoded) (s : State) : State :=
  emit (.record (.decoded v c i n r b (ackPart s.cfg v (recordFile v c i p b s))))
    { s with
      record := ackRegs s.draws (ackPart s.cfg v (recordFile v c i p b s))
        (loadBody s.cfg.tmax s.draws (recordFile v c i p b s) b
          { s.record with tag := variantTag v, cls := c, id := i, len := n, name := some r })
      draws := s.draws + 1 }

/-- The error report of a decode failure (43_field_decoder R199). -/
def failInfo (e : DecodeFail) (c i : Byte) (n : Half) : ErrInfo :=
  match e with
  | .truncated => .truncatedPayload c i n
  | .groupSize => .groupSizeMismatch c i n

/-- A decode failure: no record, the record registers hold no defined value, one `ERR` (42_dispatch R170). -/
def deliverFailure (e : DecodeFail) (c i : Byte) (n : Half) (s : State) : State :=
  raiseErr (failInfo e c i n) { s with record := freeRec s.cfg.tmax s.draws, draws := s.draws + 1 }

/-- The variant and layout of a tag, when the layout meets 42_dispatch R176 (log 14). -/
def usableLayout (cfg : Config) (t : Nat) : Option (Variant × Layout) :=
  match variantOf t, layoutOf cfg t with
  | some v, some l => if layoutValid cfg l then some (v, l) else none
  | _, _ => none

/-- `Dispatch(c, i, n, P)`: the work of a valid frame (42_dispatch R170). -/
def dispatch (c i : Byte) (n : Half) (p : List Byte) (s : State) : Res :=
  match lookup s.cfg c i with
  | none => .next (deliverRaw c i n p none s)
  | some (r, row) =>
    if row.tag = 0 then .next (deliverRaw c i n p (some r) s)
    else
      match usableLayout s.cfg row.tag with
      | none => .fault .invalidTables
      | some (v, l) =>
        match decodePayload s.cfg l p with
        | .ok b => .next (deliverDecoded v c i n p r b s)
        | .error e => .next (deliverFailure e c i n s)

end Sys2Proof.Machine
end

