-- ==== Sys2Proof/Machine/Scanner.lean ====
section
/-! DEFINITION. FrameScanner: the RX step of each phase, and the taking of a `BYTE` event (40_frame_scanner). -/

namespace Sys2Proof.Machine

/-- `(CKA, CKB) <- ck(CKA, CKB, b)`. -/
def sumByte (b : Byte) (s : State) : State :=
  { s with cka := (ck s.cfg.ckMod s.cka s.ckb b).1, ckb := (ck s.cfg.ckMod s.cka s.ckb b).2 }

/-- `BYTE(b)` in phase `HUNT` (40_frame_scanner R131). -/
def scanHunt (b : Byte) (s : State) : State := { s with phase := if b = s.cfg.preamble0 then .sync1 else .hunt }

/-- `BYTE(b)` in phase `SYNC1`; the test against the second preamble byte comes first (40_frame_scanner R132). -/
def scanSync1 (b : Byte) (s : State) : State :=
  if b = s.cfg.preamble1 then { s with cka := 0, ckb := 0, phase := .cls }
  else if b = s.cfg.preamble0 then { s with phase := .sync1 }
  else { s with phase := .hunt }

/-- `BYTE(b)` in phase `CLS` (40_frame_scanner R133). -/
def scanCls (b : Byte) (s : State) : State := { sumByte b s with cls := b, phase := .id }

/-- `BYTE(b)` in phase `ID` (40_frame_scanner R134). -/
def scanId (b : Byte) (s : State) : State := { sumByte b s with id := b, phase := .len0 }

/-- `BYTE(b)` in phase `LEN0`: `LEN[7:0] <- b`, `LEN[15:8]` kept (40_frame_scanner R135). -/
def scanLen0 (b : Byte) (s : State) : State := { sumByte b s with len := halfOf (hiByte s.len) b, phase := .len1 }

/-- `BYTE(b)` in phase `LEN1`: `LEN[15:8] <- b`, `CNT <- 0` (40_frame_scanner R136). -/
def scanLen1 (b : Byte) (s : State) : State :=
  { sumByte b s with
    len := halfOf b (loByte s.len)
    cnt := 0
    phase := if lenZero b s then .ck0 else .payload }

/-- `BYTE(b)` in phase `PAYLOAD` (40_frame_scanner R137). An address at or above `PMAX` does not exist (10_state R31;
log 13). -/
def scanPayload (b : Byte) (s : State) : Res :=
  if s.cnt.toNat < s.cfg.pmax then
    .next
      { sumByte b s with
        pbuf := pbufWrite s.pbuf s.cnt.toNat b
        phase := if lastByte s then .ck0 else .payload
        cnt := s.cnt + 1 }
  else .fault .pbufAddress

/-- `BYTE(b)` in phase `CK0` (40_frame_scanner R138). -/
def scanCk0 (b : Byte) (s : State) : State := { s with rxa := b, phase := .ck1 }

/-- The `RAWFRAME` bytes of the frame that checksum byte `b` completes (40_frame_scanner R139, 30_encoding R114). -/
def rawFrame (b : Byte) (s : State) : List Byte :=
  frameBytes s.cfg.preamble0 s.cfg.preamble1 s.cls s.id s.len (pbufBytes s.pbuf s.len.toNat) s.rxa b

/-- `BYTE(b)` in phase `CK1`: a valid frame is delivered raw and dispatched, any other is a `ChecksumError`
(40_frame_scanner R139). -/
def scanCk1 (b : Byte) (s : State) : Res :=
  if ckMatch b s then
    dispatch s.cls s.id s.len (pbufBytes s.pbuf s.len.toNat) (emit (.rawframe (rawFrame b s)) { s with phase := .hunt })
  else .next (raiseErr (.checksumError s.cls s.id s.len s.rxa b s.cka s.ckb) { s with phase := .hunt })

/-- The rule of the current phase (40_frame_scanner R130). -/
def scanByte (b : Byte) (s : State) : Res :=
  match s.phase with
  | .hunt => .next (scanHunt b s)
  | .sync1 => .next (scanSync1 b s)
  | .cls => .next (scanCls b s)
  | .id => .next (scanId b s)
  | .len0 => .next (scanLen0 b s)
  | .len1 => .next (scanLen1 b s)
  | .payload => scanPayload b s
  | .ck0 => .next (scanCk0 b s)
  | .ck1 => scanCk1 b s

/-- `BYTE(b)`: consumed with no effect in mode `HALT`, else handled by the rule of the current phase
(40_frame_scanner R130, 60_exceptions R262). -/
def takeByte (b : Byte) (s : State) : Res :=
  match s.mode with
  | .run => scanByte b s
  | .halt => .next s

/-- One `BYTE` event per byte, in order (30_encoding R121 `feed`). -/
def feed : List Byte → State → Res
  | [], s => .next s
  | b :: bs, s => andThen (takeByte b s) (feed bs)

/-- `EOC` (40_frame_scanner R140; consumed with no effect in mode `HALT`, 60_exceptions R262). -/
def takeEoc (s : State) : State :=
  match s.mode with
  | .run => if inFrame s then raiseErr .incompleteFrame s else s
  | .halt => s

end Sys2Proof.Machine
end

