-- ==== Sys2Proof/Machine/Bytes.lean ====
section
/-! DEFINITION. The meanings of `BYTE` and of its nine phase rows.

A row `BYTE.<PHASE>` is the `BYTE` word taken in that phase in mode `RUN`. Its word is `BYTE`'s, so in any other phase, and in
mode `HALT`, it is what a `BYTE` is there (40_frame_scanner R130; log 5). -/

namespace Sys2Proof.Machine

/-- `rule` when the state is in mode `RUN` and in the row's phase; otherwise the taking of a `BYTE`. -/
def inPhase (row : Phase) (rule : Byte → State → Res) (d : Byte) (s : State) : Res :=
  if s.mode = .run ∧ s.phase = row then rule d s else takeByte d s

/-- `BYTE` (40_frame_scanner R130). -/
def execByte (d : Byte) (s : State) : Res := takeByte d s

/-- `BYTE.HUNT` (40_frame_scanner R131). -/
def execByteHunt (d : Byte) (s : State) : Res := inPhase .hunt (fun b t => .next (scanHunt b t)) d s

/-- `BYTE.SYNC1` (40_frame_scanner R132). -/
def execByteSync1 (d : Byte) (s : State) : Res := inPhase .sync1 (fun b t => .next (scanSync1 b t)) d s

/-- `BYTE.CLS` (40_frame_scanner R133). -/
def execByteCls (d : Byte) (s : State) : Res := inPhase .cls (fun b t => .next (scanCls b t)) d s

/-- `BYTE.ID` (40_frame_scanner R134). -/
def execByteId (d : Byte) (s : State) : Res := inPhase .id (fun b t => .next (scanId b t)) d s

/-- `BYTE.LEN0` (40_frame_scanner R135). -/
def execByteLen0 (d : Byte) (s : State) : Res := inPhase .len0 (fun b t => .next (scanLen0 b t)) d s

/-- `BYTE.LEN1` (40_frame_scanner R136). -/
def execByteLen1 (d : Byte) (s : State) : Res := inPhase .len1 (fun b t => .next (scanLen1 b t)) d s

/-- `BYTE.PAYLOAD` (40_frame_scanner R137). -/
def execBytePayload (d : Byte) (s : State) : Res := inPhase .payload scanPayload d s

/-- `BYTE.CK0` (40_frame_scanner R138). -/
def execByteCk0 (d : Byte) (s : State) : Res := inPhase .ck0 (fun b t => .next (scanCk0 b t)) d s

/-- `BYTE.CK1` (40_frame_scanner R139). -/
def execByteCk1 (d : Byte) (s : State) : Res := inPhase .ck1 scanCk1 d s

end Sys2Proof.Machine
end

