-- ==== Sys2Proof/Machine/Control.lean ====
section
/-! DEFINITION. The meanings of `RST`, `EOC`, `BYTE+EOC` and `NOP`. -/

namespace Sys2Proof.Machine

/-- The registers as `RST` leaves them, but for `MODE` and `ERR_CODE` (70_reset_and_hazards R280): the scanner registers 0, the
presented configuration in force, the record and error registers with no defined value (log 9), `PBUF` with nothing
listed (log 8). -/
def resetRegs (s : State) : State :=
  { s with
    phase := .hunt
    cnt := 0
    cls := 0
    id := 0
    len := 0
    cka := 0
    ckb := 0
    rxa := 0
    pbuf := []
    record := freeRec s.cfgIn.tmax s.draws
    err := freeErr s.draws
    cfg := s.cfgIn
    draws := s.draws + 1 }

/-- `RST` (70_reset_and_hazards R280): in every mode and phase; `ConfigFault` and `HALT` when the tables are invalid. -/
def execRst (s : State) : Res :=
  if tablesValid s.cfgIn then .next { resetRegs s with mode := .run }
  else .next (raiseErr .configFault { resetRegs s with mode := .halt })

/-- `EOC` (40_frame_scanner R140). -/
def execEoc (s : State) : Res := .next (takeEoc s)

/-- `BYTE+EOC`: the `BYTE` first, then the `EOC` (30_encoding R118, 60_exceptions R254). -/
def execByteEoc (d : Byte) (s : State) : Res := andThen (takeByte d s) (fun t => .next (takeEoc t))

/-- `NOP`: no event (30_encoding R118). -/
def execNop (s : State) : Res := .next s

end Sys2Proof.Machine
end

