-- ==== Sys2Proof/Machine/Frames.lean ====
section
/-! DEFINITION. The meanings of the eight received frames (44_messages).

A frame is its bytes, taken one after the other by the RX agent (30_encoding R90, 40_frame_scanner R130; log 4). From phase
`HUNT` that is: the header and payload registers take the frame's values, the checksum is compared, and a valid frame is
delivered raw and decoded by the layout its identity selects. -/

namespace Sys2Proof.Machine

/-- A run of bytes that the decoder reads no frame from is taken byte by byte, as every stream of bytes is: "no frame
encoding is illegal and none traps" (30_encoding R98; log 4). RX and TX words always decode. -/
def takeUndecoded (w : InWord) (s : State) : Res :=
  match w with
  | .bytes bs => feed bs s
  | .rx _ => .next s
  | .tx _ => .next s

/-- A received frame of identity `(c, i)`. -/
def receive (c i : Byte) (p : List Byte) (a b : Byte) (s : State) : Res := feed (tableFrame c i p a b) s

/-- `NAV-PVT`, PositionFix (44_messages R210). -/
def execNavPvt (p : List Byte) (a b : Byte) (s : State) : Res := receive 0x01 0x07 p a b s

/-- `NAV-SVINFO`, SatelliteInfo (44_messages R212). -/
def execNavSvinfo (p : List Byte) (a b : Byte) (s : State) : Res := receive 0x01 0x30 p a b s

/-- `CFG-PRT`, PortConfig (44_messages R214). -/
def execCfgPrt (p : List Byte) (a b : Byte) (s : State) : Res := receive 0x06 0x00 p a b s

/-- `CFG-MSG`, MessageRateConfig (44_messages R216). -/
def execCfgMsg (p : List Byte) (a b : Byte) (s : State) : Res := receive 0x06 0x01 p a b s

/-- `MON-VER`, VersionInfo (44_messages R218). -/
def execMonVer (p : List Byte) (a b : Byte) (s : State) : Res := receive 0x0A 0x04 p a b s

/-- `ACK-ACK`, AcknowledgeAck (44_messages R220). -/
def execAckAck (p : List Byte) (a b : Byte) (s : State) : Res := receive 0x05 0x01 p a b s

/-- `ACK-NAK`, AcknowledgeNak (44_messages R220). -/
def execAckNak (p : List Byte) (a b : Byte) (s : State) : Res := receive 0x05 0x00 p a b s

/-- `RAW`, RawRecord: any other identity (42_dispatch R174, 44_messages R221). -/
def execRaw (c d : Byte) (p : List Byte) (a b : Byte) (s : State) : Res := receive c d p a b s

end Sys2Proof.Machine
end

