-- ==== Sys2Proof/Machine/PollBuilder.lean ====
section
/-! DEFINITION. PollBuilder: the meanings of `POLL`, `CFGMSG` and `TXNOP` (45_poll_builder). -/

namespace Sys2Proof.Machine

/-- The bytes `BuildFrame(c, i, p)` emits; `TXA` and `TXB` are the checksum pair (45_poll_builder R230). -/
def buildFrame (cfg : Config) (c i : Byte) (p : List Byte) : List Byte :=
  let n : Half := BitVec.ofNat 16 p.length
  let tx := cksum cfg.ckMod (frameBody c i n p)
  frameBytes cfg.preamble0 cfg.preamble1 c i n p tx.1 tx.2

/-- A TX request: one `TXFRAME` in mode `RUN`, consumed with no effect in mode `HALT` (45_poll_builder R234). -/
def sendFrame (c i : Byte) (p : List Byte) (s : State) : State :=
  match s.mode with
  | .run => emit (.txframe (buildFrame s.cfg c i p)) s
  | .halt => s

/-- `POLL(c, j)` (45_poll_builder R231). -/
def execPoll (c j : Byte) (s : State) : Res := .next (sendFrame c j [] s)

/-- `CFGMSG(c, j, r)` with the rates `r[0]` to `r[NPORTS-1]` of the six the TX word carries (45_poll_builder R233, 00_scope R7;
log 15). -/
def execCfgmsg (c j r0 r1 r2 r3 r4 r5 : Byte) (s : State) : Res :=
  .next (sendFrame s.cfg.rateCls s.cfg.rateId (c :: j :: [r0, r1, r2, r3, r4, r5].take s.cfg.nports) s)

/-- `TXNOP`: no request (30_encoding R118). -/
def execTxnop (s : State) : Res := .next s

end Sys2Proof.Machine
end

