-- ==== Sys2Proof/Machine/Dispatch.lean ====
section
/-! DEFINITION. The meaning of every instruction, one arm a constructor. -/

namespace Sys2Proof.Machine

def exec (i : Instr) (s : State) : Host.Outcome State Fault Refusal :=
  match i with
  | .navPvt p a b => Sys2Proof.Machine.execNavPvt p a b s
  | .navSvinfo p a b => Sys2Proof.Machine.execNavSvinfo p a b s
  | .cfgPrt p a b => Sys2Proof.Machine.execCfgPrt p a b s
  | .cfgMsg p a b => Sys2Proof.Machine.execCfgMsg p a b s
  | .monVer p a b => Sys2Proof.Machine.execMonVer p a b s
  | .ackAck p a b => Sys2Proof.Machine.execAckAck p a b s
  | .ackNak p a b => Sys2Proof.Machine.execAckNak p a b s
  | .raw c d p a b => Sys2Proof.Machine.execRaw c d p a b s
  | .rst => Sys2Proof.Machine.execRst s
  | .byte d => Sys2Proof.Machine.execByte d s
  | .byteHunt d => Sys2Proof.Machine.execByteHunt d s
  | .byteSync1 d => Sys2Proof.Machine.execByteSync1 d s
  | .byteCls d => Sys2Proof.Machine.execByteCls d s
  | .byteId d => Sys2Proof.Machine.execByteId d s
  | .byteLen0 d => Sys2Proof.Machine.execByteLen0 d s
  | .byteLen1 d => Sys2Proof.Machine.execByteLen1 d s
  | .bytePayload d => Sys2Proof.Machine.execBytePayload d s
  | .byteCk0 d => Sys2Proof.Machine.execByteCk0 d s
  | .byteCk1 d => Sys2Proof.Machine.execByteCk1 d s
  | .eoc => Sys2Proof.Machine.execEoc s
  | .byteEoc d => Sys2Proof.Machine.execByteEoc d s
  | .nop => Sys2Proof.Machine.execNop s
  | .poll c j => Sys2Proof.Machine.execPoll c j s
  | .cfgmsg c j r0 r1 r2 r3 r4 r5 => Sys2Proof.Machine.execCfgmsg c j r0 r1 r2 r3 r4 r5 s
  | .txnop => Sys2Proof.Machine.execTxnop s

end Sys2Proof.Machine
end

