-- ==== Sys2Proof/Machine/Step.lean ====
section
/-! DEFINITION. The step: take the oldest input word and run it. -/

namespace Sys2Proof.Machine

/-- One step: take the oldest input word offered and run the instruction it stands for (00_scope R7, R8). With no input
offered the block is idle and keeps all state (60_exceptions R267). A run of bytes that is not one whole frame is taken
byte by byte (30_encoding R98; log 4). -/
def step (s : State) : Host.Outcome State Fault Refusal :=
  match s.inq with
  | [] => .next s
  | w :: rest =>
    match decode w with
    | .ok i => exec i { s with inq := rest }
    | .error _ => takeUndecoded w { s with inq := rest }

/-- The state with a row's word of opcode_table.json offered as the next input (log 1). -/
def State.withFetchWord (s : State) (nbits w : Nat) : State :=
  match tableInput nbits w with
  | some word => { s with inq := word :: s.inq }
  | none => s

end Sys2Proof.Machine
end

