-- ==== Sys2Proof/Safety.lean ====
section
/-! DEFINITION. What claims speak of: the invariant of the block, what it means to answer, and runs of several events. -/

namespace Sys2Proof.Machine

/-- `PBUF` is in its canonical form and inside its address space (20_memory R60, R69). -/
abbrev MemoryOk (s : State) : Prop := Memory.wf s.cfg.pmax s.pbuf = true

/-- `PBUF` has room for every length `LEN` can hold, under the configuration in force and under the one presented (10_state R24:
"`LEN <= 65535 = PMAX`"; log 15). -/
abbrev BufferFits (s : State) : Prop := 65535 ≤ s.cfg.pmax ∧ 65535 ≤ s.cfgIn.pmax

/-- In mode `RUN` the tables in force are valid (60_exceptions R261). -/
abbrev TablesOk (s : State) : Prop := s.mode = .run → tablesValid s.cfg = true

/-- The scanner invariants of 40_frame_scanner R141, phase by phase. -/
def ScannerOk (s : State) : Prop :=
  match s.phase with
  | .hunt => True
  | .sync1 => True
  | .cls => (s.cka, s.ckb) = (0, 0)
  | .id => (s.cka, s.ckb) = cksum s.cfg.ckMod [s.cls]
  | .len0 => (s.cka, s.ckb) = cksum s.cfg.ckMod [s.cls, s.id]
  | .len1 => (s.cka, s.ckb) = cksum s.cfg.ckMod [s.cls, s.id, loByte s.len]
  | .payload =>
    s.cnt.toNat < s.len.toNat ∧
      (s.cka, s.ckb) = cksum s.cfg.ckMod (frameBody s.cls s.id s.len (pbufBytes s.pbuf s.cnt.toNat))
  | .ck0 =>
    s.cnt = s.len ∧ (s.cka, s.ckb) = cksum s.cfg.ckMod (frameBody s.cls s.id s.len (pbufBytes s.pbuf s.len.toNat))
  | .ck1 =>
    s.cnt = s.len ∧ (s.cka, s.ckb) = cksum s.cfg.ckMod (frameBody s.cls s.id s.len (pbufBytes s.pbuf s.len.toNat))

/-- The invariant of the block. -/
def BlockInv (s : State) : Prop := MemoryOk s ∧ TablesOk s ∧ BufferFits s ∧ ScannerOk s

/-- `TLEN`, 5 bits, can count `TMAX` bytes under the configuration in force and under the one presented (log 15), and each text
register holds at most `TMAX` bytes and `TLEN` counts them (10_state R41). -/
def TextOk (s : State) : Prop :=
  (s.cfg.tmax < 32 ∧ s.cfgIn.tmax < 32) ∧
    ∀ j : Fin 2, s.record.t[j].length ≤ s.cfg.tmax ∧ s.record.tlen[j].toNat = s.record.t[j].length

/-- The block waits for the first preamble byte in mode `RUN` with the default configuration in force, and `PBUF` is in
canonical form. -/
def Hunting (s : State) : Prop := s.mode = .run ∧ s.phase = .hunt ∧ s.cfg = defaultConfig ∧ MemoryOk s

/-- A meaning goes on with a next state. -/
def Answers (r : Res) : Prop := ∃ t, r = .next t

/-- The instructions of a list, one after the other. -/
def execAll : List Instr → State → Res
  | [], s => .next s
  | i :: is, s => andThen (exec i s) (execAll is)

/-- Chunks: the bytes of each, then `EOC` (30_encoding R121 `chunk`). -/
def feedChunks : List (List Byte) → State → Res
  | [], s => .next s
  | c :: cs, s => andThen (feed c s) (fun t => feedChunks cs (takeEoc t))

/-- The TX requests (00_scope R7; `TXNOP` is no request). -/
def IsTx : Instr → Prop
  | .poll _ _ => True
  | .cfgmsg _ _ _ _ _ _ _ _ => True
  | .txnop => True
  | _ => False

/-- The two checksum bytes of a frame are the ones computed with modulus 256 (41_checksum R162, R163). -/
abbrev GoodChecksum (c i : Byte) (p : List Byte) (a b : Byte) : Prop :=
  (a, b) = cksum 256 (frameBody c i (BitVec.ofNat 16 p.length) p)

/-- What a whole frame leaves in the scanner registers and in `PBUF` when it arrives in phase `HUNT`
(40_frame_scanner R131 to R139), and what it leaves as it was. -/
def FrameTaken (c i : Byte) (p : List Byte) (a : Byte) (s t : State) : Prop :=
  t.phase = .hunt ∧ t.cls = c ∧ t.id = i ∧ t.len = BitVec.ofNat 16 p.length ∧ t.cnt = BitVec.ofNat 16 p.length ∧
    (t.cka, t.ckb) = cksum s.cfg.ckMod (frameBody c i (BitVec.ofNat 16 p.length) p) ∧ t.rxa = a ∧
    (∀ x, pbufRead t.pbuf x = (p[x]?).getD (pbufRead s.pbuf x)) ∧
    t.mode = s.mode ∧ t.cfg = s.cfg ∧ t.cfgIn = s.cfgIn ∧ t.inq = s.inq

/-- The record registers carry a decoded record (10_state R33 to R42): every register it defines has its value. -/
def Carries (r : RecRegs) (v : Variant) (c i : Byte) (n : Half) (row : Nat) (body : Decoded) (ack : Option AckName) :
    Prop :=
  r.tag = variantTag v ∧ r.cls = c ∧ r.id = i ∧ r.len = n ∧ r.name = some row ∧
    (∀ fv ∈ body.fields, r.f[fv.reg] = fv.value) ∧
    (∀ q : Fin 32, r.fvalid.getLsbD q.val = body.fields.any (fun fv => fv.reg == q)) ∧
    (∀ q : Fin 32, r.fpresent.getLsbD q.val = body.fields.any (fun fv => fv.reg == q && fv.present)) ∧
    r.gcnt.toNat = body.rows.length ∧
    (∀ (k : Fin 255) (col : Fin 4) (x : Word),
      (body.rows[k.val]?).bind (fun cells => cells[col.val]?) = some (some x) → (r.g[k])[col] = x) ∧
    (∀ tv ∈ body.texts, r.t[tv.reg] = tv.bytes ∧ r.tlen[tv.reg].toNat = tv.bytes.length) ∧
    (∀ j : Fin 2, r.tvalid.getLsbD j.val = body.texts.any (fun tv => tv.reg == j)) ∧
    match ack with
    | some (.found k) => r.ackFound = true ∧ r.ackName = k
    | some .notFound => r.ackFound = false
    | none => True

/-- A valid frame of identity `(c, i)`, row `row` of the identity table, arrived in phase `HUNT` and was delivered: `RAWFRAME`
and then one decoded `RECORD` (40_frame_scanner R139), the record registers carry it, the error registers are as they
were. -/
def Delivered (v : Variant) (c i : Byte) (p : List Byte) (a b : Byte) (row : Nat) (body : Decoded) (ack : Option AckName)
    (s t : State) : Prop :=
  FrameTaken c i p a s t ∧
    t.out = s.out ++ [.rawframe (tableFrame c i p a b),
      .record (.decoded v c i (BitVec.ofNat 16 p.length) row body ack)] ∧
    Carries t.record v c i (BitVec.ofNat 16 p.length) row body ack ∧ t.err = s.err

/-- The acknowledgement part the default identity table gives for an acknowledged identity (42_dispatch R172, R178). -/
def defaultAck (c i : Byte) : AckName :=
  if c = 0x01 ∧ i = 0x07 then .found 0
  else if c = 0x01 ∧ i = 0x30 then .found 1
  else if c = 0x06 ∧ i = 0x00 then .found 2
  else if c = 0x06 ∧ i = 0x01 then .found 3
  else if c = 0x0A ∧ i = 0x04 then .found 4
  else if c = 0x05 ∧ i = 0x01 then .found 5
  else if c = 0x05 ∧ i = 0x00 then .found 6
  else .notFound

/-- The output events but for `IncompleteFrame` (40_frame_scanner R142). -/
def withoutIncomplete (es : List OutEvent) : List OutEvent := es.filter (fun e => e != .err .incompleteFrame)

end Sys2Proof.Machine
end

