-- ==== Sys2Proof/Certificates/Slice0/Obligations.lean ====
section
/-! DEFINITION. The statements for the provers. -/

open Sys2Proof Sys2Proof.Machine

/-- When the oldest word offered decodes to an instruction, the step is exec of it at the state without that word; a run
of bytes that is no whole frame is fed byte by byte; with nothing offered the state stays. The input queue is the
model's own (log 1, log 4). (Rests on 00_scope.md R7, 00_scope.md R8, 60_exceptions.md R267, 30_encoding.md R98.) -/
def Obligations.StepRunsTheDecodedInstruction : Prop :=
  (∀ (s : State) (w : InWord) (rest : List InWord) (i : Instr),
      s.inq = w :: rest → decode w = .ok i → step s = exec i { s with inq := rest }) ∧
    (∀ (s : State) (bs : List Byte) (rest : List InWord) (e : DecodeError),
      s.inq = .bytes bs :: rest → decode (.bytes bs) = .error e → step s = feed bs { s with inq := rest }) ∧
    ∀ s : State, s.inq = [] → step s = .next s

/-- For every well-formed instruction, with every operand, decode of encode answers it; a phase row BYTE.<PHASE> answers
BYTE with the same operand, whose word it shares (log 5). (Rests on 30_encoding.md R90, 30_encoding.md R107,
30_encoding.md R118.) -/
def Obligations.EncodedInstructionsDecode : Prop :=
  ∀ i : Instr, i.wellFormed = true → decode (encode i) = .ok i.wordRow

/-- If a run of bytes decodes to an instruction, the instruction is well formed and encodes to the same bytes: no bit of a
frame is dropped. (Rests on 30_encoding.md R90, 30_encoding.md R96, 30_encoding.md R107.) -/
def Obligations.DecodedFramesEncodeBack : Prop :=
  ∀ (bs : List Byte) (i : Instr), decode (.bytes bs) = .ok i → i.wellFormed = true ∧ encode i = .bytes bs

/-- The header words of the frame rows, one word of each RX row and one of each TX row decode to the rows they stand for,
and of the words with don't-care bits EVERY one does: each RX word with bit 10 set is RST, 010xxxxxxxx is EOC,
000xxxxxxxx is NOP, 001 and 011 with a byte d are BYTE(d) and BYTE+EOC(d); each TX word with a leading 0 is TXNOP, and
each that begins 10 is POLL of its class and id, whatever the rates. That a header word alone decodes to a frame with
an empty payload and checksum bytes 0 0, and that an RX word stands in 16 bits and a TX word in 72, is the model's
choice (log 18, DESIGN CHOICE): R97 says that the hardware never assembles the header word. (Rests on 30_encoding.md
R97, 30_encoding.md R106, 30_encoding.md R118, 70_reset_and_hazards.md R280.) -/
def Obligations.WordsOfTheTableDecode : Prop :=
  decodeTableWord 32 0xB5620107 = some (.navPvt [] 0 0) ∧ decodeTableWord 32 0xB5620130 = some (.navSvinfo [] 0 0) ∧
    decodeTableWord 32 0xB5620600 = some (.cfgPrt [] 0 0) ∧ decodeTableWord 32 0xB5620601 = some (.cfgMsg [] 0 0) ∧
    decodeTableWord 32 0xB5620A04 = some (.monVer [] 0 0) ∧ decodeTableWord 32 0xB5620501 = some (.ackAck [] 0 0) ∧
    decodeTableWord 32 0xB5620500 = some (.ackNak [] 0 0) ∧ decodeTableWord 32 0xB5620D03 = some (.raw 0x0D 0x03 [] 0 0) ∧
    decodeTableWord 16 0b10000000000 = some .rst ∧ decodeTableWord 16 0b00110110101 = some (.byte 0xB5) ∧
    decodeTableWord 16 0b01000000000 = some .eoc ∧ decodeTableWord 16 0b01100111000 = some (.byteEoc 0x38) ∧
    decodeTableWord 16 0b00011111111 = some .nop ∧ decodeTableWord 72 0x20600000000000000 = some (.poll 0x06 0x00) ∧
    decodeTableWord 72 0x30130060504030201 = some (.cfgmsg 0x01 0x30 1 2 3 4 5 6) ∧ decodeTableWord 72 0 = some .txnop ∧
    (∀ w : BitVec 11, w.getLsbD 10 = true → decode (.rx w) = .ok .rst) ∧
    (∀ d : Byte, decode (.rx (0b010#3 ++ d)) = .ok .eoc ∧ decode (.rx (0b000#3 ++ d)) = .ok .nop ∧
      decode (.rx (0b001#3 ++ d)) = .ok (.byte d) ∧ decode (.rx (0b011#3 ++ d)) = .ok (.byteEoc d)) ∧
    (∀ w : BitVec 66, w.getLsbD 65 = false → decode (.tx w) = .ok .txnop) ∧
    ∀ (c j : Byte) (rates : BitVec 48), decode (.tx (0b10#2 ++ c ++ j ++ rates)) = .ok (.poll c j)

/-- State.reset has MODE RUN, PHASE HUNT and zero scanner registers, the default tables are valid, and the invariants
BlockInv and TextOk hold; that TextOk holds rests on the empty texts the model names for reset, a choice of the model
(log 6). (Rests on 70_reset_and_hazards.md R280, 70_reset_and_hazards.md R281, 10_state.md R49.) -/
def Obligations.ResetIsRunningAndHunting : Prop :=
  tablesValid defaultConfig = true ∧ State.reset.mode = .run ∧ State.reset.phase = .hunt ∧ State.reset.cnt = 0 ∧
    State.reset.cls = 0 ∧ State.reset.id = 0 ∧ State.reset.len = 0 ∧ State.reset.cka = 0 ∧ State.reset.ckb = 0 ∧
    State.reset.rxa = 0 ∧ BlockInv State.reset ∧ TextOk State.reset

/-- Every RX word with the rst bit set decodes to RST, whatever byte or end of chunk is offered with it. In every mode and
phase RST answers a state with PHASE HUNT, zero scanner registers and the presented configuration in force; with valid
tables MODE is RUN and nothing is put out, with invalid ones MODE is HALT, ERR_CODE is 5 and ERR(ConfigFault) is put
out. (Formalises R280.) -/
def Obligations.RstRestartsTheBlock : Prop :=
  (∀ w : BitVec 11, w.getLsbD 10 = true → decode (.rx w) = .ok .rst) ∧
    ∀ s : State, ∃ t : State, exec .rst s = .next t ∧ t.phase = .hunt ∧ t.cnt = 0 ∧ t.cls = 0 ∧ t.id = 0 ∧ t.len = 0 ∧
      t.cka = 0 ∧ t.ckb = 0 ∧ t.rxa = 0 ∧ t.cfg = s.cfgIn ∧ t.cfgIn = s.cfgIn ∧ t.inq = s.inq ∧
      if tablesValid s.cfgIn = true then t.mode = .run ∧ t.out = s.out
      else t.mode = .halt ∧ t.err.code = 5 ∧ t.out = s.out ++ [.err .configFault]

/-- In mode HALT every instruction but RST, frames included, answers the state unchanged. (Formalises R262.) -/
def Obligations.HaltConsumesEveryOtherEvent : Prop :=
  ∀ (i : Instr) (s : State), i ≠ .rst → s.mode = .halt → exec i s = .next s

/-- RST sets MODE from table validation; an answer to any other instruction has the MODE and the configuration it started
with; no instruction changes the presented configuration or the input queue. (Rests on 60_exceptions.md R261,
00_scope.md R9, 70_reset_and_hazards.md R280.) -/
def Obligations.OnlyRstWritesModeAndConfiguration : Prop :=
  (∀ s t : State, exec .rst s = .next t → t.mode = if tablesValid s.cfgIn = true then .run else .halt) ∧
    (∀ (i : Instr) (s t : State), i ≠ .rst → exec i s = .next t → t.mode = s.mode ∧ t.cfg = s.cfg) ∧
    ∀ (i : Instr) (s t : State), exec i s = .next t → t.cfgIn = s.cfgIn ∧ t.inq = s.inq

/-- In mode RUN and phase HUNT the next phase is SYNC1 when the byte is PREAMBLE0 and HUNT otherwise, and nothing else
changes. (Formalises R131.) -/
def Obligations.ByteHuntLooksForThePreamble : Prop :=
  ∀ (s : State) (d : Byte), s.mode = .run → s.phase = .hunt →
    exec (.byteHunt d) s = .next { s with phase := if d = s.cfg.preamble0 then .sync1 else .hunt }

/-- In mode RUN and phase SYNC1 the test against PREAMBLE1 comes first and clears CKA and CKB; then a byte equal to
PREAMBLE0 keeps SYNC1; any other returns to HUNT; nothing else changes. (Formalises R132.) -/
def Obligations.ByteSync1CompletesThePreamble : Prop :=
  ∀ (s : State) (d : Byte), s.mode = .run → s.phase = .sync1 →
    exec (.byteSync1 d) s = .next
      (if d = s.cfg.preamble1 then { s with cka := 0, ckb := 0, phase := .cls }
       else if d = s.cfg.preamble0 then { s with phase := .sync1 } else { s with phase := .hunt })

/-- In mode RUN and phase CLS the byte is written to CLS, CKA and CKB take the checksum update and the next phase is ID;
nothing else changes. (Formalises R133.) -/
def Obligations.ByteClsTakesTheClass : Prop :=
  ∀ (s : State) (d : Byte), s.mode = .run → s.phase = .cls →
    exec (.byteCls d) s = .next
      { s with
        cls := d
        cka := (ck s.cfg.ckMod s.cka s.ckb d).1
        ckb := (ck s.cfg.ckMod s.cka s.ckb d).2
        phase := .id }

/-- In mode RUN and phase ID the byte is written to ID, CKA and CKB take the checksum update and the next phase is LEN0;
nothing else changes. (Formalises R134.) -/
def Obligations.ByteIdTakesTheId : Prop :=
  ∀ (s : State) (d : Byte), s.mode = .run → s.phase = .id →
    exec (.byteId d) s = .next
      { s with
        id := d
        cka := (ck s.cfg.ckMod s.cka s.ckb d).1
        ckb := (ck s.cfg.ckMod s.cka s.ckb d).2
        phase := .len0 }

/-- In mode RUN and phase LEN0 the byte becomes the low byte of LEN, the high byte keeps its value, CKA and CKB are
updated and the next phase is LEN1; nothing else changes. (Formalises R135.) -/
def Obligations.ByteLen0TakesTheLowLengthByte : Prop :=
  ∀ (s : State) (d : Byte), s.mode = .run → s.phase = .len0 → ∃ n : Half,
    n.toNat = 256 * (s.len.toNat / 256) + d.toNat ∧
      exec (.byteLen0 d) s = .next
        { s with
          len := n
          cka := (ck s.cfg.ckMod s.cka s.ckb d).1
          ckb := (ck s.cfg.ckMod s.cka s.ckb d).2
          phase := .len1 }

/-- In mode RUN and phase LEN1 the byte becomes the high byte of LEN, CNT becomes 0, CKA and CKB are updated, and the next
phase is CK0 when LEN is 0 and PAYLOAD otherwise; nothing else changes. (Formalises R136.) -/
def Obligations.ByteLen1TakesTheHighLengthByte : Prop :=
  ∀ (s : State) (d : Byte), s.mode = .run → s.phase = .len1 → ∃ n : Half,
    n.toNat = 256 * d.toNat + s.len.toNat % 256 ∧
      exec (.byteLen1 d) s = .next
        { s with
          len := n
          cnt := 0
          cka := (ck s.cfg.ckMod s.cka s.ckb d).1
          ckb := (ck s.cfg.ckMod s.cka s.ckb d).2
          phase := if n = 0 then .ck0 else .payload }

/-- In mode RUN and phase PAYLOAD, with CNT below LEN and an address PBUF has (below PMAX), PBUF at CNT becomes the byte,
every other address reads as before, CNT counts up, CKA and CKB are updated, and the next phase is CK0 exactly at the
last payload byte; nothing else changes. (Formalises R137.) -/
def Obligations.BytePayloadStoresOneByte : Prop :=
  ∀ (s : State) (d : Byte), s.mode = .run → s.phase = .payload → MemoryOk s → s.cnt.toNat < s.cfg.pmax →
    s.cnt.toNat < s.len.toNat →
    ∃ t : State, exec (.bytePayload d) s = .next t ∧ pbufRead t.pbuf s.cnt.toNat = d ∧
      (∀ x, x ≠ s.cnt.toNat → pbufRead t.pbuf x = pbufRead s.pbuf x) ∧ t.cnt.toNat = s.cnt.toNat + 1 ∧ MemoryOk t ∧
      t =
        { s with
          pbuf := t.pbuf
          cnt := t.cnt
          cka := (ck s.cfg.ckMod s.cka s.ckb d).1
          ckb := (ck s.cfg.ckMod s.cka s.ckb d).2
          phase := if s.cnt.toNat + 1 = s.len.toNat then .ck0 else .payload }

/-- In mode RUN and phase CK0 the byte is written to RXA and the next phase is CK1; nothing else changes. (Formalises
R138.) -/
def Obligations.ByteCk0HoldsTheFirstChecksumByte : Prop :=
  ∀ (s : State) (d : Byte), s.mode = .run → s.phase = .ck0 →
    exec (.byteCk0 d) s = .next { s with rxa := d, phase := .ck1 }

/-- In mode RUN and phase CK1, when either received byte differs from the computed one, the seven info registers and
ERR_CODE 2 are written, ERR(ChecksumError) is the only output, the record registers and PBUF are as before and the
next phase is HUNT. (Formalises R247.) -/
def Obligations.ByteCk1ReportsABadChecksum : Prop :=
  ∀ (s : State) (d : Byte), s.mode = .run → s.phase = .ck1 → ¬ (s.rxa = s.cka ∧ d = s.ckb) →
    exec (.byteCk1 d) s = .next
      { s with
        phase := .hunt
        err := ⟨2, s.cls, s.id, s.len, s.rxa, d, s.cka, s.ckb⟩
        out := s.out ++ [.err (.checksumError s.cls s.id s.len s.rxa d s.cka s.ckb)] }

/-- From a state with the invariant, in mode RUN and phase CK1 with both checksum bytes right, the step answers with PHASE
HUNT, the raw bytes of the frame, and then one record, or one TruncatedPayload, or one GroupSizeMismatch with the
frame's class, id and length; no scanner register but PHASE changes, and PBUF is as before. (Rests on
40_frame_scanner.md R139, 40_frame_scanner.md R144, 42_dispatch.md R179.) -/
def Obligations.ByteCk1DeliversAValidFrame : Prop :=
  ∀ (s : State) (d : Byte), BlockInv s → s.mode = .run → s.phase = .ck1 → s.rxa = s.cka → d = s.ckb →
    ∃ (t : State) (e : OutEvent), exec (.byteCk1 d) s = .next t ∧
      t.out = s.out ++ [.rawframe ([s.cfg.preamble0, s.cfg.preamble1, s.cls, s.id, loByte s.len, hiByte s.len] ++
        pbufBytes s.pbuf s.len.toNat ++ [s.rxa, d]), e] ∧
      ((∃ r, e = .record r) ∨ e = .err (.truncatedPayload s.cls s.id s.len) ∨
        e = .err (.groupSizeMismatch s.cls s.id s.len)) ∧
      t = { s with phase := .hunt, record := t.record, err := t.err, out := t.out, draws := t.draws }

/-- The nine phase rows share the word of BYTE; in every state, also one of another phase or in mode HALT, each does what
BYTE does there. Taking the rows so outside their phase is the model's choice (log 5). (Rests on 40_frame_scanner.md
R130, 30_encoding.md R118.) -/
def Obligations.PhaseRowsAreTheByteEvent : Prop :=
  ∀ (s : State) (d : Byte),
    exec (.byteHunt d) s = exec (.byte d) s ∧ exec (.byteSync1 d) s = exec (.byte d) s ∧
      exec (.byteCls d) s = exec (.byte d) s ∧ exec (.byteId d) s = exec (.byte d) s ∧
      exec (.byteLen0 d) s = exec (.byte d) s ∧ exec (.byteLen1 d) s = exec (.byte d) s ∧
      exec (.bytePayload d) s = exec (.byte d) s ∧ exec (.byteCk0 d) s = exec (.byte d) s ∧
      exec (.byteCk1 d) s = exec (.byte d) s

/-- From a state with the invariant in mode RUN, BYTE answers; the next phase is the table's; in every phase but CK1 the
output, the record registers and the error registers are unchanged, and in every phase but PAYLOAD so is PBUF. (Rests
on 40_frame_scanner.md R130.) -/
def Obligations.ByteFollowsThePhaseTable : Prop :=
  ∀ (s : State) (d : Byte), BlockInv s → s.mode = .run → ∃ t : State, exec (.byte d) s = .next t ∧
    (t.phase =
      match s.phase with
      | .hunt => if d = s.cfg.preamble0 then .sync1 else .hunt
      | .sync1 => if d = s.cfg.preamble1 then .cls else if d = s.cfg.preamble0 then .sync1 else .hunt
      | .cls => .id
      | .id => .len0
      | .len0 => .len1
      | .len1 => if d = 0 ∧ s.len.toNat % 256 = 0 then .ck0 else .payload
      | .payload => if s.cnt.toNat + 1 = s.len.toNat then .ck0 else .payload
      | .ck0 => .ck1
      | .ck1 => .hunt) ∧
    (s.phase ≠ .ck1 → t.out = s.out ∧ t.record = s.record ∧ t.err = s.err) ∧
    (s.phase ≠ .payload → ∀ x, pbufRead t.pbuf x = pbufRead s.pbuf x)

/-- In mode RUN, EOC in a phase other than HUNT writes ERR_CODE 1 and puts out ERR(IncompleteFrame), and changes nothing
else; in HUNT it changes nothing. (Formalises R140.) -/
def Obligations.EocReportsAnUnfinishedFrame : Prop :=
  ∀ s : State, s.mode = .run →
    exec .eoc s = .next
      (if s.phase ≠ .hunt then
        { s with err := { s.err with code := 1 }, out := s.out ++ [.err .incompleteFrame] }
       else s)

/-- From a state with the invariant, BYTE answers a state, EOC answers from there, and BYTE+EOC answers that same final
state; in phase CK0 in mode RUN the byte is held in RXA, IncompleteFrame is reported with ERR_CODE 1, and nothing else
changes. That the other error registers keep their values is how the model reads R140 and R44 (log 12, DEDUCED).
(Rests on 30_encoding.md R118, 60_exceptions.md R254, 40_frame_scanner.md R138, 40_frame_scanner.md R140.) -/
def Obligations.ByteEocIsByteThenEoc : Prop :=
  ∀ (s : State) (d : Byte), BlockInv s → ∃ t u : State, exec (.byte d) s = .next t ∧ exec .eoc t = .next u ∧
    exec (.byteEoc d) s = .next u ∧
    (s.mode = .run → s.phase = .ck0 →
      u = { s with rxa := d, phase := .ck1, err := { s.err with code := 1 }, out := s.out ++ [.err .incompleteFrame] })

/-- In every state NOP and TXNOP answer the state unchanged. (Rests on 30_encoding.md R118.) -/
def Obligations.NoEventWordsDoNothing : Prop :=
  ∀ s : State, exec .nop s = .next s ∧ exec .txnop s = .next s

/-- With checksum modulus 256, in mode RUN POLL(c, i) puts out the eight bytes PREAMBLE0 PREAMBLE1 c i 00 00 (c+i)
(4c+3i), sums modulo 256, and changes nothing else; in mode HALT it changes nothing. (Formalises R231.) -/
def Obligations.PollSendsAnEmptyFrame : Prop :=
  ∀ (s : State) (c j : Byte), s.cfg.ckMod = 256 →
    exec (.poll c j) s = .next
      (match s.mode with
       | .run => { s with out := s.out ++ [.txframe [s.cfg.preamble0, s.cfg.preamble1, c, j, 0, 0, c + j, 4 * c + 3 * j]] }
       | .halt => s)

/-- With NPORTS = 6, in mode RUN CFGMSG(c, i, r) puts out one frame of identity (RATE_CLS, RATE_ID) whose eight payload
bytes are c, i and the six rates, with the checksum of its body, and changes nothing else; in mode HALT it changes
nothing. (Formalises R233.) -/
def Obligations.CfgmsgSendsTheRates : Prop :=
  ∀ (s : State) (c j r0 r1 r2 r3 r4 r5 : Byte), s.cfg.nports = 6 →
    exec (.cfgmsg c j r0 r1 r2 r3 r4 r5) s = .next
      (match s.mode with
       | .run =>
         { s with
           out := s.out ++ [.txframe ([s.cfg.preamble0, s.cfg.preamble1, s.cfg.rateCls, s.cfg.rateId, 8, 0, c, j, r0, r1,
             r2, r3, r4, r5, (cksum s.cfg.ckMod [s.cfg.rateCls, s.cfg.rateId, 8, 0, c, j, r0, r1, r2, r3, r4, r5]).1,
             (cksum s.cfg.ckMod [s.cfg.rateCls, s.cfg.rateId, 8, 0, c, j, r0, r1, r2, r3, r4, r5]).2])] }
       | .halt => s)

/-- For a TX request x and an instruction i other than RST that both answer: serving i after x puts out for i what it puts
out alone, serving x after i puts out for x what it puts out alone, and the two final states differ in the order of
the outputs only. RST is left out because it writes the MODE that a TX request reads. (Rests on 20_memory.md R75,
45_poll_builder.md R234.) -/
def Obligations.TxAndRxCommute : Prop :=
  ∀ (s s1 s2 : State) (x i : Instr), IsTx x → i ≠ .rst → exec x s = .next s1 → exec i s = .next s2 →
    ∃ (ox oi : List OutEvent) (t u : State), s1 = { s with out := s.out ++ ox } ∧ s2.out = s.out ++ oi ∧
      exec i s1 = .next t ∧ t.out = s.out ++ ox ++ oi ∧ exec x s2 = .next u ∧ u.out = s.out ++ oi ++ ox ∧
      t = { u with out := t.out }

/-- With modulus 256, ck(a, b, x) is (a + x, b + (a + x)) in 8-bit arithmetic. (Formalises R160.) -/
def Obligations.ChecksumUpdateAddsModulo256 : Prop :=
  ∀ a b x : Byte, ck 256 a b x = (a + x, b + (a + x))

/-- For every byte sequence s of length m, the first byte of cksum(s) is the sum of s modulo 256 and the second the sum of
(m - j) times byte j modulo 256; cksum of the empty sequence is (0, 0). (Formalises R161.) -/
def Obligations.ChecksumClosedForm : Prop :=
  cksum 256 [] = (0, 0) ∧
    ∀ s : List Byte, (cksum 256 s).1.toNat = (s.map (fun x => x.toNat)).sum % 256 ∧
      (cksum 256 s).2.toNat = (s.zipIdx.map (fun x => (s.length - x.2) * x.1.toNat)).sum % 256

/-- For a frame that arrives in phase HUNT under the default configuration: with the right checksum bytes the first output
is its RAWFRAME; with one payload byte replaced by another value, or with another pair of checksum bytes, the only
output is a ChecksumError. (Formalises R164.) -/
def Obligations.ChecksumCatchesSingleByteErrors : Prop :=
  ∀ (s : State) (c i a b : Byte) (p : List Byte), Hunting s → p.length ≤ 65535 → GoodChecksum c i p a b →
    (∃ (t : State) (e : OutEvent), feed (tableFrame c i p a b) s = .next t ∧
        t.out = s.out ++ [.rawframe (tableFrame c i p a b), e]) ∧
      (∀ (k : Nat) (x : Byte), k < p.length → p[k]? ≠ some x →
        ∃ (t : State) (ca cb : Byte), feed (tableFrame c i (p.set k x) a b) s = .next t ∧
          t.out = s.out ++ [.err (.checksumError c i (BitVec.ofNat 16 p.length) a b ca cb)]) ∧
      ∀ a' b' : Byte, (a', b') ≠ (a, b) →
        ∃ t : State, feed (tableFrame c i p a' b') s = .next t ∧
          t.out = s.out ++ [.err (.checksumError c i (BitVec.ofNat 16 p.length) a' b' a b)]

/-- Under every configuration, in mode RUN and phase HUNT, the bytes of a frame of any identity, of any payload that PBUF
has room for (LEN <= PMAX) and of any checksum bytes leave its class, id, length, payload and checksum in the
registers; if the checksum pair is right they are then dispatched after RAWFRAME, otherwise ChecksumError is raised.
Record registers, error registers and free values are untouched before that. (Rests on 40_frame_scanner.md R131,
40_frame_scanner.md R139, 41_checksum.md R163, 42_dispatch.md R170.) -/
def Obligations.FrameReceptionIsCheckThenDispatch : Prop :=
  ∀ (s : State) (c i a b : Byte) (p : List Byte), s.mode = .run → s.phase = .hunt → MemoryOk s → p.length ≤ 65535 →
    p.length ≤ s.cfg.pmax →
    ∃ u : State, FrameTaken c i p a s u ∧ u.record = s.record ∧ u.err = s.err ∧ u.out = s.out ∧ u.draws = s.draws ∧
      feed (frameBytes s.cfg.preamble0 s.cfg.preamble1 c i (BitVec.ofNat 16 p.length) p a b) s =
        if (a, b) = cksum s.cfg.ckMod (frameBody c i (BitVec.ofNat 16 p.length) p) then
          dispatch c i (BitVec.ofNat 16 p.length) p
            (emit (.rawframe (frameBytes s.cfg.preamble0 s.cfg.preamble1 c i (BitVec.ofNat 16 p.length) p a b)) u)
        else .next (raiseErr (.checksumError c i (BitVec.ofNat 16 p.length) a b u.cka u.ckb) u)

/-- Under the default configuration, from phase HUNT, a NAV-PVT frame with the right checksum and a payload of 78 bytes or
more puts out its RAWFRAME and a PositionFix record of row 0 whose fields are read at the layout's offsets with the
layout's types; the last three take 0 and are marked absent when the payload ends before them; bytes after offset 92
change nothing. (Rests on 44_messages.md R210, 43_field_decoder.md R190, 43_field_decoder.md R191.) -/
def Obligations.NavPvtDeliversPositionFix : Prop :=
  ∀ (s : State) (p : List Byte) (a b : Byte), Hunting s → 78 ≤ p.length → p.length ≤ 65535 →
    GoodChecksum 0x01 0x07 p a b →
    ∃ t : State, exec (.navPvt p a b) s = .next t ∧
      Delivered .positionFix 0x01 0x07 p a b 0
        ⟨[⟨0, readNumber .u4 p 0, true⟩, ⟨1, readNumber .u2 p 4, true⟩, ⟨2, readNumber .u1 p 6, true⟩, ⟨3,
        readNumber .u1 p 7, true⟩, ⟨4, readNumber .u1 p 8, true⟩, ⟨5, readNumber .u1 p 9, true⟩, ⟨6, readNumber .u1
        p 10, true⟩, ⟨7, readNumber .x1 p 11, true⟩, ⟨8, readNumber .u4 p 12, true⟩, ⟨9, readNumber .i4 p 16, true⟩,
        ⟨10, readNumber .u1 p 20, true⟩, ⟨11, readNumber .x1 p 21, true⟩, ⟨12, readNumber .x1 p 22, true⟩, ⟨13,
        readNumber .u1 p 23, true⟩, ⟨14, readNumber .i4 p 24, true⟩, ⟨15, readNumber .i4 p 28, true⟩, ⟨16,
        readNumber .i4 p 32, true⟩, ⟨17, readNumber .i4 p 36, true⟩, ⟨18, readNumber .u4 p 40, true⟩, ⟨19,
        readNumber .u4 p 44, true⟩, ⟨20, readNumber .i4 p 48, true⟩, ⟨21, readNumber .i4 p 52, true⟩, ⟨22,
        readNumber .i4 p 56, true⟩, ⟨23, readNumber .i4 p 60, true⟩, ⟨24, readNumber .i4 p 64, true⟩, ⟨25,
        readNumber .u4 p 68, true⟩, ⟨26, readNumber .u4 p 72, true⟩, ⟨27, readNumber .u2 p 76, true⟩, ⟨28, if 88 ≤
        p.length then readNumber .i4 p 84 else 0, decide (88 ≤ p.length)⟩, ⟨29, if 90 ≤ p.length then readNumber .i2
        p 88 else 0, decide (90 ≤ p.length)⟩, ⟨30, if 92 ≤ p.length then readNumber .u2 p 90 else 0, decide (92 ≤
        p.length)⟩], [], []⟩
        none s t

/-- Under the default configuration, from phase HUNT, a NAV-SVINFO frame with the right checksum whose length is 8 + 12
times its count byte puts out its RAWFRAME and a SatelliteInfo record of row 1 with the three header fields and count
rows (svid, elevation, azimuth, carrier-to-noise) in payload order. (Rests on 44_messages.md R212, 43_field_decoder.md
R196.) -/
def Obligations.NavSvinfoDeliversSatellites : Prop :=
  ∀ (s : State) (p : List Byte) (a b : Byte), Hunting s → p.length = 8 + 12 * memRead p 4 1 →
    p.length ≤ 65535 →
    GoodChecksum 0x01 0x30 p a b →
    ∃ t : State, exec (.navSvinfo p a b) s = .next t ∧
      Delivered .satelliteInfo 0x01 0x30 p a b 1
        ⟨[⟨0, readNumber .u4 p 0, true⟩, ⟨1, readNumber .u1 p 4, true⟩, ⟨2, readNumber .x1 p 5, true⟩], [],
          (List.range (memRead p 4 1)).map (fun r =>
            [some (readNumber .u1 p (8 + 12 * r + 1)), some (readNumber .i1 p (8 + 12 * r + 5)),
             some (readNumber .i2 p (8 + 12 * r + 6)), some (readNumber .u1 p (8 + 12 * r + 4))])⟩
        none s t

/-- Under the default configuration, from phase HUNT, a CFG-PRT frame with the right checksum and a payload of 18 bytes or
more puts out its RAWFRAME and a PortConfig record of row 2 with the seven fields of the layout. (Rests on
44_messages.md R214.) -/
def Obligations.CfgPrtDeliversPortConfig : Prop :=
  ∀ (s : State) (p : List Byte) (a b : Byte), Hunting s → 18 ≤ p.length → p.length ≤ 65535 →
    GoodChecksum 0x06 0x00 p a b →
    ∃ t : State, exec (.cfgPrt p a b) s = .next t ∧
      Delivered .portConfig 0x06 0x00 p a b 2
        ⟨[⟨0, readNumber .u1 p 0, true⟩, ⟨1, readNumber .x2 p 2, true⟩, ⟨2, readNumber .x4 p 4, true⟩, ⟨3,
        readNumber .u4 p 8, true⟩, ⟨4, readNumber .x2 p 12, true⟩, ⟨5, readNumber .x2 p 14, true⟩, ⟨6, readNumber
        .x2 p 16, true⟩], [], []⟩
        none s t

/-- Under the default configuration, from phase HUNT, a CFG-MSG frame with the right checksum and a payload of 8 bytes or
more puts out its RAWFRAME and a MessageRateConfig record of row 3 with the class, the id and the six rates. (Rests on
44_messages.md R216.) -/
def Obligations.CfgMsgDeliversMessageRates : Prop :=
  ∀ (s : State) (p : List Byte) (a b : Byte), Hunting s → 8 ≤ p.length → p.length ≤ 65535 →
    GoodChecksum 0x06 0x01 p a b →
    ∃ t : State, exec (.cfgMsg p a b) s = .next t ∧
      Delivered .messageRateConfig 0x06 0x01 p a b 3
        ⟨[⟨0, readNumber .u1 p 0, true⟩, ⟨1, readNumber .u1 p 1, true⟩, ⟨2, readNumber .u1 p 2, true⟩, ⟨3,
        readNumber .u1 p 3, true⟩, ⟨4, readNumber .u1 p 4, true⟩, ⟨5, readNumber .u1 p 5, true⟩, ⟨6, readNumber .u1
        p 6, true⟩, ⟨7, readNumber .u1 p 7, true⟩], [], []⟩
        none s t

/-- Under the default configuration, from phase HUNT, a MON-VER frame with the right checksum and a payload of 40 bytes or
more puts out its RAWFRAME and a VersionInfo record of row 4 whose texts are payload bytes 0 to 29 and 30 to 39
without their trailing zero bytes. (Rests on 44_messages.md R218, 43_field_decoder.md R192.) -/
def Obligations.MonVerDeliversVersionTexts : Prop :=
  ∀ (s : State) (p : List Byte) (a b : Byte), Hunting s → 40 ≤ p.length → p.length ≤ 65535 →
    GoodChecksum 0x0A 0x04 p a b →
    ∃ t : State, exec (.monVer p a b) s = .next t ∧
      Delivered .versionInfo 0x0A 0x04 p a b 4
        ⟨[], [⟨0, stripTrailing (p.take 30)⟩, ⟨1, stripTrailing ((p.drop 30).take 10)⟩], []⟩
        none s t

/-- Under the default configuration, from phase HUNT, a ACK-ACK frame with the right checksum and a payload of 2 bytes or
more puts out its RAWFRAME and a record of row 5 with the acknowledged class and id, and the identity-table row they
name or the report that there is none. (Rests on 44_messages.md R220, 42_dispatch.md R178.) -/
def Obligations.AckAckDeliversAcknowledgement : Prop :=
  ∀ (s : State) (p : List Byte) (a b : Byte), Hunting s → 2 ≤ p.length → p.length ≤ 65535 →
    GoodChecksum 0x05 0x01 p a b →
    ∃ t : State, exec (.ackAck p a b) s = .next t ∧
      Delivered .acknowledgeAck 0x05 0x01 p a b 5
        ⟨[⟨0, readNumber .u1 p 0, true⟩, ⟨1, readNumber .u1 p 1, true⟩], [], []⟩
        (some (defaultAck ((p[0]?).getD 0) ((p[1]?).getD 0))) s t

/-- Under the default configuration, from phase HUNT, a ACK-NAK frame with the right checksum and a payload of 2 bytes or
more puts out its RAWFRAME and a record of row 6 with the acknowledged class and id, and the identity-table row they
name or the report that there is none. (Rests on 44_messages.md R220, 42_dispatch.md R178.) -/
def Obligations.AckNakDeliversRefusal : Prop :=
  ∀ (s : State) (p : List Byte) (a b : Byte), Hunting s → 2 ≤ p.length → p.length ≤ 65535 →
    GoodChecksum 0x05 0x00 p a b →
    ∃ t : State, exec (.ackNak p a b) s = .next t ∧
      Delivered .acknowledgeNak 0x05 0x00 p a b 6
        ⟨[⟨0, readNumber .u1 p 0, true⟩, ⟨1, readNumber .u1 p 1, true⟩], [], []⟩
        (some (defaultAck ((p[0]?).getD 0) ((p[1]?).getD 0))) s t

/-- Under the default configuration, from phase HUNT, a frame of an identity the table does not hold, with the right
checksum and any payload, puts out its RAWFRAME and a RawRecord with no name and the payload; FVALID, FPRESENT, GCNT
and TVALID become 0; no field register, arena row or text register is written, which the model reads as keeping what
it held (log 10, DEDUCED); ACK_FOUND and ACK_NAME are not constrained; no error is reported. (Rests on 42_dispatch.md
R174, 60_exceptions.md R251.) -/
def Obligations.RawDeliversThePayloadUnchanged : Prop :=
  ∀ (s : State) (c i : Byte) (p : List Byte) (a b : Byte), Hunting s → namedIdentity c i = false → p.length ≤ 65535 →
    GoodChecksum c i p a b →
    ∃ t : State, exec (.raw c i p a b) s = .next t ∧ FrameTaken c i p a s t ∧
      t.out = s.out ++ [.rawframe (tableFrame c i p a b), .record (.raw c i (BitVec.ofNat 16 p.length) none p)] ∧
      t.err = s.err ∧
      t.record =
        { s.record with
          tag := 0, cls := c, id := i, len := BitVec.ofNat 16 p.length, name := none, fvalid := 0, fpresent := 0, gcnt := 0,
          tvalid := 0, ackFound := t.record.ackFound, ackName := t.record.ackName }

/-- Under the default configuration, from phase HUNT, a frame of any of the eight rows whose checksum pair is not the
computed one puts out ChecksumError with both pairs only, writes the eight error registers, and leaves the record
registers as they were. (Rests on 40_frame_scanner.md R139, 60_exceptions.md R247.) -/
def Obligations.BadChecksumDiscardsTheFrame : Prop :=
  ∀ (s : State) (c i : Byte) (p : List Byte) (a b ca cb : Byte), Hunting s → p.length ≤ 65535 →
    GoodChecksum c i p ca cb → (a, b) ≠ (ca, cb) →
    ∃ t : State, exec (frameRow c i p a b) s = .next t ∧ FrameTaken c i p a s t ∧
      t.out = s.out ++ [.err (.checksumError c i (BitVec.ofNat 16 p.length) a b ca cb)] ∧ t.record = s.record ∧
      t.err = ⟨2, c, i, BitVec.ofNat 16 p.length, a, b, ca, cb⟩

/-- Under the default configuration, from phase HUNT, a valid frame of a known identity whose payload is shorter than its
layout's mandatory fields need (78, 6, 18, 8, 40, 2, 2 bytes) puts out its RAWFRAME and TruncatedPayload, and writes
ERR_CODE 3 and the class, id and length registers. (Rests on 43_field_decoder.md R187, 44_messages.md R210,
44_messages.md R212, 60_exceptions.md R248.) -/
def Obligations.ShortFramesAreTruncated : Prop :=
  ∀ (s : State) (c i : Byte) (m : Nat) (p : List Byte) (a b : Byte), Hunting s →
    (c, i, m) ∈ [((0x01 : Byte), (0x07 : Byte), 78), (0x01, 0x30, 6), (0x06, 0x00, 18), (0x06, 0x01, 8), (0x0A, 0x04, 40),
      (0x05, 0x01, 2), (0x05, 0x00, 2)] → p.length < m → GoodChecksum c i p a b →
    ∃ t : State, exec (frameRow c i p a b) s = .next t ∧ FrameTaken c i p a s t ∧
      t.out = s.out ++ [.rawframe (tableFrame c i p a b), .err (.truncatedPayload c i (BitVec.ofNat 16 p.length))] ∧
      t.err.code = 3 ∧ t.err.cls = c ∧ t.err.id = i ∧ t.err.len = BitVec.ofNat 16 p.length

/-- Under the default configuration, from phase HUNT, a valid NAV-SVINFO frame of 6 bytes or more whose length differs
from 8 plus 12 times its count byte puts out its RAWFRAME and GroupSizeMismatch, and writes ERR_CODE 4 and the class,
id and length registers. (Rests on 43_field_decoder.md R195, 44_messages.md R212, 60_exceptions.md R249.) -/
def Obligations.WrongGroupSizeIsReported : Prop :=
  ∀ (s : State) (p : List Byte) (a b : Byte), Hunting s → 6 ≤ p.length → p.length ≤ 65535 →
    p.length ≠ 8 + 12 * memRead p 4 1 → GoodChecksum 0x01 0x30 p a b →
    ∃ t : State, exec (.navSvinfo p a b) s = .next t ∧ FrameTaken 0x01 0x30 p a s t ∧
      t.out = s.out ++ [.rawframe (tableFrame 0x01 0x30 p a b),
        .err (.groupSizeMismatch 0x01 0x30 (BitVec.ofNat 16 p.length))] ∧
      t.err.code = 4 ∧ t.err.cls = 0x01 ∧ t.err.id = 0x30 ∧ t.err.len = BitVec.ofNat 16 p.length

/-- In mode RUN and phase HUNT with valid tables, under every configuration, feeding the bytes BuildFrame makes for any
class, id and payload that PBUF has room for (LEN <= PMAX) puts out the RAWFRAME of those bytes and then one record or
decode error, never a ChecksumError. (Formalises R166.) -/
def Obligations.BuiltFramesAreValid : Prop :=
  ∀ (s : State) (c i : Byte) (p : List Byte), s.mode = .run → s.phase = .hunt → tablesValid s.cfg = true → MemoryOk s →
    p.length ≤ 65535 → p.length ≤ s.cfg.pmax →
    ∃ (t : State) (e : OutEvent), feed (buildFrame s.cfg c i p) s = .next t ∧
      t.out = s.out ++ [.rawframe (buildFrame s.cfg c i p), e] ∧
      ((∃ r, e = .record r) ∨ e = .err (.truncatedPayload c i (BitVec.ofNat 16 p.length)) ∨
        e = .err (.groupSizeMismatch c i (BitVec.ofNat 16 p.length)))

/-- Under the default configuration, from phase HUNT, CFGMSG(c, i, r) puts out one frame, and feeding its bytes puts out
its RAWFRAME and a MessageRateConfig record with F[0] = c, F[1] = i and F[2+p] = r[p]. (Formalises R217.) -/
def Obligations.RateFramesRoundTrip : Prop :=
  ∀ (s : State) (c j r0 r1 r2 r3 r4 r5 : Byte), Hunting s →
    ∃ (f : List Byte) (t u : State), exec (.cfgmsg c j r0 r1 r2 r3 r4 r5) s = .next t ∧ t.out = s.out ++ [.txframe f] ∧
      feed f t = .next u ∧
      u.out = t.out ++ [.rawframe f, .record (.decoded .messageRateConfig 0x06 0x01 8 3
        ⟨[⟨0, c.setWidth 32, true⟩, ⟨1, j.setWidth 32, true⟩, ⟨2, r0.setWidth 32, true⟩, ⟨3, r1.setWidth 32, true⟩,
          ⟨4, r2.setWidth 32, true⟩, ⟨5, r3.setWidth 32, true⟩, ⟨6, r4.setWidth 32, true⟩, ⟨7, r5.setWidth 32, true⟩],
          [], []⟩ none)]

/-- If feeding the bytes of all chunks in one go answers, then feeding chunk by chunk with an EOC after each answers a
state that is the same but for the output and the error registers, and whose output is the same but for
IncompleteFrame events. (Formalises R142.) -/
def Obligations.ChunkingDoesNotMatter : Prop :=
  ∀ (s w : State) (cs : List (List Byte)), feed cs.flatten s = .next w →
    ∃ u : State, feedChunks cs s = .next u ∧ withoutIncomplete u.out = withoutIncomplete w.out ∧
      u = { w with out := u.out, err := u.err }

/-- In mode RUN and phase HUNT, a byte string with no adjacent PREAMBLE0 PREAMBLE1 fed before anything that begins with
the preamble gives exactly what feeding that alone gives, when the two preamble bytes differ, or when they are equal
and the garbage does not end in one. (Formalises R143.) -/
def Obligations.GarbageBeforeAFrameIsHarmless : Prop :=
  ∀ (s : State) (g rest : List Byte), s.mode = .run → s.phase = .hunt →
    ¬ [s.cfg.preamble0, s.cfg.preamble1] <:+: g →
    (s.cfg.preamble0 ≠ s.cfg.preamble1 ∨ g.getLast? ≠ some s.cfg.preamble0) →
    feed (g ++ s.cfg.preamble0 :: s.cfg.preamble1 :: rest) s = feed (s.cfg.preamble0 :: s.cfg.preamble1 :: rest) s

/-- Two states with the invariant that agree on MODE, on the configuration in force and the one presented, and on the
output so far, both in phase HUNT, whatever their other registers, buffers and free values hold: every sequence of
instructions answers from both and puts out the same events. (Rests on 10_state.md R47, 42_dispatch.md R180.) -/
def Obligations.HuntingForgetsThePast : Prop :=
  ∀ (s1 s2 : State) (is : List Instr), BlockInv s1 → BlockInv s2 → s1.phase = .hunt → s2.phase = .hunt →
    s1.mode = s2.mode → s1.cfg = s2.cfg → s1.cfgIn = s2.cfgIn → s1.out = s2.out →
    ∃ t1 t2 : State, execAll is s1 = .next t1 ∧ execAll is s2 = .next t2 ∧ t1.out = t2.out

/-- From every state with BlockInv, a step that answers gives a state with BlockInv: PBUF in canonical form and with room
for every length, valid tables in mode RUN, and the relations of R141 between PHASE, CNT, LEN, CKA, CKB and PBUF.
(Rests on 40_frame_scanner.md R141, 20_memory.md R69.) -/
def Obligations.EveryStepKeepsTheInvariant : Prop :=
  ∀ s t : State, BlockInv s → step s = .next t → BlockInv t

/-- The block never stops: from every state with BlockInv, whatever input is offered, the step answers a next state, with
no fault and no refusal. (Rests on 60_exceptions.md R252, 20_memory.md R69.) -/
def Obligations.EveryStepAnswers : Prop :=
  ∀ s : State, BlockInv s → Answers (step s)

/-- From every state in which each text register holds at most TMAX bytes and its TLEN counts them, TMAX being at most 31
in the configuration in force and the one presented so that the 5 bits of TLEN can count it, a step that answers gives
such a state. After RST, a decode failure, or a record that names no text, the text registers hold no defined value;
that the free bytes standing there are at most TMAX and that TLEN counts them is the model's choice (log 9, DESIGN
CHOICE). (Rests on 10_state.md R41, 42_dispatch.md R176.) -/
def Obligations.TextLengthsStayRight : Prop :=
  ∀ s t : State, TextOk s → step s = .next t → TextOk t

/-- If an instruction answers, the new output is the old one and a list, and from the same state with any other earlier
output it answers the same state with that list appended there. (Rests on 00_scope.md R8, 10_state.md R20.) -/
def Obligations.EventsOnlyAppend : Prop :=
  ∀ (i : Instr) (s t : State), exec i s = .next t →
    ∃ l : List OutEvent, ∀ o : List OutEvent, exec i { s with out := o } = .next { t with out := o ++ l }

/-- If an instruction answers, then from the same state with any other contents of the record and error registers it
answers a state that differs in those registers only. (Formalises R46.) -/
def Obligations.RecordAndErrorRegistersAreNeverRead : Prop :=
  ∀ (i : Instr) (s t : State) (r : RecRegs) (e : ErrRegs), exec i s = .next t →
    ∃ (r' : RecRegs) (e' : ErrRegs),
      exec i { s with record := r, err := e } = .next { t with record := r', err := e' }

/-- In phase CK1, if the step answers, then with any other buffer that holds the same bytes below LEN it answers the same
state with that buffer. (Rests on 20_memory.md R62.) -/
def Obligations.BufferBeyondLenIsNeverSeen : Prop :=
  ∀ (s t : State) (d : Byte) (m : Memory), s.phase = .ck1 →
    (∀ x, x < s.len.toNat → pbufRead m x = pbufRead s.pbuf x) → exec (.byteCk1 d) s = .next t →
    exec (.byteCk1 d) { s with pbuf := m } = .next { t with pbuf := m }

/-- tablesValid answers true exactly when identities are distinct, tags are at most 7 with layouts present, destinations
are distinct and in range, offsets, scales and text lengths are in range, fields rise and optional ones come last,
groups are well formed, and the sizes fit. That the bound on scales is one on field descriptors and not on the columns
of a group is the model's choice (log 21, DESIGN CHOICE). (Rests on 42_dispatch.md R176, 70_reset_and_hazards.md
R281.) -/
def Obligations.ValidityIsTheEightConditions : Prop :=
  ∀ cfg : Config, tablesValid cfg = true ↔
    cfg.idt.Pairwise (fun x y => ¬ (x.cls = y.cls ∧ x.id = y.id)) ∧
    (∀ row ∈ cfg.idt, row.tag ≤ 7 ∧ (row.tag ≠ 0 → ∃ l, layoutOf cfg row.tag = some l)) ∧
    (∀ lr ∈ cfg.layouts,
      (lr.layout.fields.map fieldDst).Nodup ∧
      (∀ f ∈ lr.layout.fields, fieldOff f + fieldSize f ≤ 65535 ∧
        match f with
        | .num dst _ _ k _ _ _ => k ≤ cfg.kmax ∧ dst.val < cfg.nf
        | .text dst _ len k _ _ _ => k ≤ cfg.kmax ∧ dst.val < cfg.nt ∧ 1 ≤ len ∧ len ≤ cfg.tmax) ∧
      lr.layout.fields.Pairwise (fun x y => fieldOff x ≤ fieldOff y) ∧
      lr.layout.fields.Pairwise (fun x y => fieldOpt x = true → fieldOpt y = true) ∧
      ∀ g, lr.layout.group = some g →
        (∃ off unit dflt, Field.num g.cnt off .u1 0 unit false dflt ∈ lr.layout.fields) ∧ 1 ≤ g.item ∧
        (∀ f ∈ lr.layout.fields, fieldOff f + fieldSize f ≤ g.hdr ∧ fieldOpt f = false) ∧
        (∀ c ∈ g.cols, c.col.val < cfg.gcols ∧ c.ioff + numSize c.ty ≤ g.item) ∧ (g.cols.map (·.col)).Nodup) ∧
    cfg.nf ≤ 32 ∧ cfg.nt ≤ 2 ∧ cfg.gcols ≤ 4 ∧ 255 ≤ cfg.gmax

/-- Under valid tables lookup(c, i) answers row number r and that row exactly when row r of the table has class c and id
i, and answers NOTFOUND exactly when no row has them. (Formalises R173.) -/
def Obligations.LookupFindsExactlyTheMatchingRow : Prop :=
  ∀ (cfg : Config) (c i : Byte), tablesValid cfg = true →
    (∀ (r : Nat) (row : IdRow),
      lookup cfg c i = some (r, row) ↔ cfg.idt[r]? = some row ∧ row.cls = c ∧ row.id = i) ∧
    (lookup cfg c i = none ↔ ∀ row ∈ cfg.idt, ¬ (row.cls = c ∧ row.id = i))

/-- Each within its own bound: MemRead of 1, 2 and 4 bytes is the sum of the 1, 2 and 4 bytes weighted by powers of 256;
the low byte of a 4-byte read is MemRead of 1 at the same offset and its high half MemRead of 2 two bytes on.
(Formalises R65.) -/
def Obligations.NumbersAreReadLittleEndian : Prop :=
  ∀ (p : List Byte) (a : Nat),
    (∀ b0 : Byte, p[a]? = some b0 → memRead p a 1 = b0.toNat) ∧
    (∀ b0 b1 : Byte, p[a]? = some b0 → p[a + 1]? = some b1 → memRead p a 2 = b0.toNat + 256 * b1.toNat) ∧
    ∀ b0 b1 b2 b3 : Byte, p[a]? = some b0 → p[a + 1]? = some b1 → p[a + 2]? = some b2 → p[a + 3]? = some b3 →
      memRead p a 4 = b0.toNat + 256 * b1.toNat + 256 ^ 2 * b2.toNat + 256 ^ 3 * b3.toNat ∧
      memRead p a 4 % 2 ^ 8 = memRead p a 1 ∧ memRead p a 4 / 2 ^ 16 = memRead p (a + 2) 2

/-- For every payload and every offset with the field in bounds: an I1, I2 or I4 field gives the register whose
two's-complement value is that of the 8, 16 or 32 bits read, and a U1, U2, U4, X1, X2 or X4 field the register whose
unsigned value is the number read from 1, 2 or 4 bytes. (Rests on 30_encoding.md R102, 30_encoding.md R103,
43_field_decoder.md R186, 43_field_decoder.md R188.) -/
def Obligations.FieldsAreExtendedByTheirType : Prop :=
  ∀ (p : List Byte) (off : Nat),
    (off + 1 ≤ p.length →
      (readNumber .i1 p off).toInt =
          (if memRead p off 1 < 2 ^ 7 then (memRead p off 1 : Int) else (memRead p off 1 : Int) - 2 ^ 8) ∧
        (readNumber .u1 p off).toNat = memRead p off 1 ∧ (readNumber .x1 p off).toNat = memRead p off 1) ∧
    (off + 2 ≤ p.length →
      (readNumber .i2 p off).toInt =
          (if memRead p off 2 < 2 ^ 15 then (memRead p off 2 : Int) else (memRead p off 2 : Int) - 2 ^ 16) ∧
        (readNumber .u2 p off).toNat = memRead p off 2 ∧ (readNumber .x2 p off).toNat = memRead p off 2) ∧
    (off + 4 ≤ p.length →
      (readNumber .i4 p off).toInt =
          (if memRead p off 4 < 2 ^ 31 then (memRead p off 4 : Int) else (memRead p off 4 : Int) - 2 ^ 32) ∧
        (readNumber .u4 p off).toNat = memRead p off 4 ∧ (readNumber .x4 p off).toNat = memRead p off 4)

/-- For every exponent and register, the semantic value times 10^k is the register's two's-complement integer for I1, I2
and I4 and its unsigned integer for the other types; a field that the layout of a tag names first, and a cell whose
column the layout's group names first, has that value with the type and the k of its descriptor; the document's
latitude and height examples come out as 47.3397123 and 123.456. (Rests on 43_field_decoder.md R189,
43_field_decoder.md R196, 30_encoding.md R105, 00_scope.md R13.) -/
def Obligations.ScaledValuesAreExact : Prop :=
  (∀ (ty : NumTy) (k : Nat) (v : Word),
      scaledValue ty k v * 10 ^ k = if ty ∈ [NumTy.i1, .i2, .i4] then (v.toInt : ℚ) else (v.toNat : ℚ)) ∧
    (∀ (cfg : Config) (t : Nat) (l : Layout) (fs gs : List Field) (q : Fin 32) (off k : Nat) (ty : NumTy) (unit : FieldUnit)
        (opt : Bool) (dflt v : Word),
      layoutOf cfg t = some l → l.fields = fs ++ .num q off ty k unit opt dflt :: gs →
      (∀ f ∈ fs, fieldDst f ≠ (false, q.val)) → semanticValue cfg t q v = some (scaledValue ty k v)) ∧
    (∀ (cfg : Config) (t : Nat) (l : Layout) (g : Group) (cs ds : List Column) (d : Column) (v : Word),
      layoutOf cfg t = some l → l.group = some g → g.cols = cs ++ d :: ds → (∀ x ∈ cs, x.col ≠ d.col) →
      semanticCell cfg t d.col v = some (scaledValue d.ty d.k v)) ∧
    semanticValue defaultConfig 1 15 (readNumber .i4 [0x83, 0x77, 0x37, 0x1C] 0) = some 47.3397123 ∧
    semanticValue defaultConfig 1 17 (readNumber .i4 [0x40, 0xE2, 0x01, 0x00] 0) = some 123.456

/-- With TEXT_STRIP trailing a text is the stripped text followed by zero bytes and the stripped text does not end in one;
with TEXT_STRIP all it is the text without its zero bytes, and the two agree on text followed by padding. (Formalises
R193.) -/
def Obligations.TextLosesItsPadding : Prop :=
  (∀ s : List Byte, (∃ k : Nat, s = strip .trailing s ++ List.replicate k 0) ∧
      (strip .trailing s).getLast? ≠ some 0) ∧
    (∀ s : List Byte, strip .all s = s.filter (fun x => x != 0)) ∧
    ∀ (s : List Byte) (k : Nat), (∀ x ∈ s, x ≠ 0) → strip .trailing (s ++ List.replicate k 0) = s ∧
      strip .all (s ++ List.replicate k 0) = s

/-- Under every valid configuration with the table's preamble 0xB5 0x62, in mode RUN and phase HUNT, a frame of any of the
eight rows whose identity has row r of the identity table with tag 0, with the right checksum and any payload PBUF has
room for, puts out its RAWFRAME and a RawRecord with the name r and the payload; REC_NAME becomes r, FVALID, FPRESENT,
GCNT and TVALID become 0; no field register, arena row or text register is written, which the model reads as keeping
what it held (log 10, DEDUCED); ACK_FOUND and ACK_NAME are not constrained; no error is reported. (Rests on
42_dispatch.md R175, 42_dispatch.md R174, 40_frame_scanner.md R139.) -/
def Obligations.NamedRawRowsKeepTheirName : Prop :=
  ∀ (s : State) (c i : Byte) (r : Nat) (row : IdRow) (p : List Byte) (a b : Byte), s.mode = .run → s.phase = .hunt →
    s.cfg.preamble0 = 0xB5 → s.cfg.preamble1 = 0x62 → tablesValid s.cfg = true → MemoryOk s →
    p.length ≤ 65535 → p.length ≤ s.cfg.pmax → s.cfg.idt[r]? = some row → row.cls = c → row.id = i → row.tag = 0 →
    (a, b) = cksum s.cfg.ckMod (frameBody c i (BitVec.ofNat 16 p.length) p) →
    ∃ t : State, exec (frameRow c i p a b) s = .next t ∧ FrameTaken c i p a s t ∧
      t.out = s.out ++ [.rawframe (tableFrame c i p a b), .record (.raw c i (BitVec.ofNat 16 p.length) (some r) p)] ∧
      t.err = s.err ∧
      t.record =
        { s.record with
          tag := 0, cls := c, id := i, len := BitVec.ofNat 16 p.length, name := some r, fvalid := 0, fpresent := 0,
          gcnt := 0, tvalid := 0, ackFound := t.record.ackFound, ackName := t.record.ackName }

/-- From any two states under one configuration, whatever else they hold and whatever came before, dispatching the same
class, id, length and payload answers from both or from neither, and puts out the same events. (Formalises R180.) -/
def Obligations.EqualFramesGiveEqualResults : Prop :=
  ∀ (c i : Byte) (n : Half) (p : List Byte) (s1 s2 t1 : State), s1.cfg = s2.cfg → dispatch c i n p s1 = .next t1 →
    ∃ (l : List OutEvent) (t2 : State), t1.out = s1.out ++ l ∧ dispatch c i n p s2 = .next t2 ∧ t2.out = s2.out ++ l
end

