-- ==== Sys2Proof/Laws/Memory.lean ====
section
/-! SUPPORT. The payload buffer: canonical form, read after write, and the vectors and masks of the registers. -/

namespace Sys2Proof.Machine

theorem memoryWfFrom_cons (size lo k : Nat) (v : Byte) (m : Memory) :
    memoryWfFrom size lo ((k, v) :: m) = true ↔ lo ≤ k ∧ k < size ∧ v ≠ unlistedByte ∧ memoryWfFrom size (k + 1) m = true := by
  simp [memoryWfFrom, and_assoc]

theorem memoryWfFrom_mono {size lo lo' : Nat} (h : lo' ≤ lo) {m : Memory} (hm : memoryWfFrom size lo m = true) :
    memoryWfFrom size lo' m = true := by
  cases m with
  | nil => rfl
  | cons c m =>
    obtain ⟨k, v⟩ := c
    rw [memoryWfFrom_cons] at hm ⊢
    exact ⟨by omega, hm.2⟩

/-- An address below every listed one reads as an unlisted one. -/
theorem pbufRead_below {size lo : Nat} {m : Memory} (hm : memoryWfFrom size lo m = true) {a : Nat} (ha : a < lo) :
    pbufRead m a = unlistedByte := by
  induction m generalizing lo with
  | nil => rfl
  | cons c m ih =>
    obtain ⟨k, v⟩ := c
    rw [memoryWfFrom_cons] at hm
    rw [pbufRead, if_neg (by omega)]
    exact ih hm.2.2.2 (by omega)

/-- A write at or above `lo` keeps the canonical form from `lo` on. -/
theorem pbufWrite_wfFrom {size lo a : Nat} (hlo : lo ≤ a) (ha : a < size) (b : Byte) {m : Memory}
    (hm : memoryWfFrom size lo m = true) : memoryWfFrom size lo (pbufWrite m a b) = true := by
  induction m generalizing lo with
  | nil =>
    rw [pbufWrite]
    split
    · rfl
    · rename_i hb
      exact (memoryWfFrom_cons ..).2 ⟨hlo, ha, hb, rfl⟩
  | cons c m ih =>
    obtain ⟨k, v⟩ := c
    have hc := (memoryWfFrom_cons ..).1 hm
    rw [pbufWrite]
    split
    · rename_i hk
      exact (memoryWfFrom_cons ..).2 ⟨hc.1, hc.2.1, hc.2.2.1, ih (by omega) hc.2.2.2⟩
    · split
      · rename_i hk
        split
        · exact memoryWfFrom_mono (by omega) hc.2.2.2
        · rename_i hb
          exact (memoryWfFrom_cons ..).2 ⟨hlo, ha, hb, hk ▸ hc.2.2.2⟩
      · split
        · exact hm
        · rename_i hb
          refine (memoryWfFrom_cons ..).2 ⟨hlo, ha, hb, (memoryWfFrom_cons ..).2 ⟨by omega, hc.2⟩⟩

/-- Every write to an address of `PBUF` keeps its canonical form. -/
theorem pbufWrite_wf {size a : Nat} (ha : a < size) (b : Byte) {m : Memory} (hm : Memory.wf size m = true) :
    Memory.wf size (pbufWrite m a b) = true :=
  pbufWrite_wfFrom (Nat.zero_le a) ha b hm

theorem pbufRead_pbufWrite_from {size lo : Nat} {m : Memory} (hm : memoryWfFrom size lo m = true) (a : Nat) (b : Byte) (x : Nat) :
    pbufRead (pbufWrite m a b) x = if x = a then b else pbufRead m x := by
  induction m generalizing lo with
  | nil =>
    by_cases hb : b = unlistedByte
    · by_cases hx : x = a <;> simp [pbufWrite, pbufRead, hb, hx]
    · by_cases hx : x = a
      · simp [pbufWrite, pbufRead, hb, hx]
      · have : ¬ a = x := fun h => hx h.symm
        simp [pbufWrite, pbufRead, hb, hx, this]
  | cons c m ih =>
    obtain ⟨k, v⟩ := c
    have hc := (memoryWfFrom_cons ..).1 hm
    rw [pbufWrite]
    split
    · rename_i hk
      rw [pbufRead, ih hc.2.2.2]
      by_cases hx : x = a
      · rw [if_pos hx, if_pos hx, if_neg (by omega)]
      · rw [if_neg hx, if_neg hx, pbufRead]
    · split
      · rename_i hk
        subst hk
        by_cases hx : x = k
        · subst hx
          split
          · rename_i hb
            rw [pbufRead_below hc.2.2.2 (by omega), if_pos rfl, hb]
          · simp [pbufRead]
        · have hx' : ¬ k = x := fun h => hx h.symm
          split <;> simp [pbufRead, hx']
      · rename_i h1 h2
        by_cases hx : x = a
        · subst hx
          split
          · rename_i hb
            rw [pbufRead, if_neg (by omega), pbufRead_below hc.2.2.2 (by omega), if_pos rfl, hb]
          · simp [pbufRead]
        · have hx' : ¬ a = x := fun h => hx h.symm
          split <;> simp [pbufRead, hx']

/-- A byte of `PBUF` after a write: the byte written at its address, every other byte as before. -/
theorem pbufRead_pbufWrite {size : Nat} {m : Memory} (hm : Memory.wf size m = true) (a : Nat) (b : Byte) (x : Nat) :
    pbufRead (pbufWrite m a b) x = if x = a then b else pbufRead m x :=
  pbufRead_pbufWrite_from hm a b x

@[simp] theorem pbufBytes_length (m : Memory) (n : Nat) : (pbufBytes m n).length = n := by simp [pbufBytes]

theorem pbufBytes_succ (m : Memory) (n : Nat) : pbufBytes m (n + 1) = pbufBytes m n ++ [pbufRead m n] := by
  simp [pbufBytes, List.range_succ]

/-- Two buffers that agree below `n` hold the same first `n` bytes. -/
theorem pbufBytes_congr {m m' : Memory} {n : Nat} (h : ∀ a, a < n → pbufRead m a = pbufRead m' a) :
    pbufBytes m n = pbufBytes m' n := by
  apply List.map_congr_left
  intro a ha
  exact h a (List.mem_range.1 ha)

/-- A write at or above `n` leaves the first `n` bytes. -/
theorem pbufBytes_pbufWrite {size : Nat} {m : Memory} (hm : Memory.wf size m = true) {n a : Nat} (h : n ≤ a) (b : Byte) :
    pbufBytes (pbufWrite m a b) n = pbufBytes m n :=
  pbufBytes_congr fun x hx => by rw [pbufRead_pbufWrite hm, if_neg (by omega)]

theorem reset_memory_wf : Memory.wf State.reset.cfg.pmax State.reset.pbuf = true := rfl

@[simp] theorem tabulate_getElem {α : Type} (n : Nat) (f : Nat → α) (k : Nat) (h : k < n) : (tabulate n f)[k] = f k := by
  simp [tabulate]

theorem maskOf_getLsbD (w : Nat) (ks : List Nat) (q : Nat) :
    (maskOf w ks).getLsbD q = (decide (q < w) && decide (q ∈ ks)) := by
  induction ks with
  | nil => simp [maskOf]
  | cons k ks ih =>
    simp only [maskOf, BitVec.getLsbD_or, ih, BitVec.getLsbD_twoPow, List.mem_cons]
    by_cases hq : q < w <;> by_cases hk : q = k <;> by_cases hm : q ∈ ks <;> simp_all <;> omega

end Sys2Proof.Machine
end

