-- ==== Sys2Proof/Laws/Decoder.lean ====
section
/-! SUPPORT. What the field decoder reads, descriptor by descriptor, and what the record registers hold of it. -/

namespace Sys2Proof.Machine

theorem decodeFields_nil (st : TextStrip) (p : List Byte) : decodeFields st p [] = some ([], []) := rfl

/-- A numeric field inside the payload is read. -/
theorem decodeFields_num {p : List Byte} {off : Nat} {ty : NumTy} (h : off + numSize ty ≤ p.length) (st : TextStrip)
    (dst : Fin 32) (k : Nat) (unit : FieldUnit) (opt : Bool) (dflt : Word) (fs : List Field) :
    decodeFields st p (.num dst off ty k unit opt dflt :: fs) =
      (decodeFields st p fs).map (fun r => (⟨dst, readNumber ty p off, true⟩ :: r.1, r.2)) := by
  simp [decodeFields, inBounds, h]

/-- An optional numeric field takes its value or its default. -/
theorem decodeFields_opt (st : TextStrip) (p : List Byte) (dst : Fin 32) (off : Nat) (ty : NumTy) (k : Nat) (unit : FieldUnit)
    (dflt : Word) (fs : List Field) :
    decodeFields st p (.num dst off ty k unit true dflt :: fs) =
      (decodeFields st p fs).map (fun r =>
        (⟨dst, if off + numSize ty ≤ p.length then readNumber ty p off else dflt, decide (off + numSize ty ≤ p.length)⟩ :: r.1,
          r.2)) := by
  by_cases h : off + numSize ty ≤ p.length <;> simp [decodeFields, inBounds, h]

/-- A text inside the payload is read and stripped. -/
theorem decodeFields_text {p : List Byte} {off len : Nat} (h : off + len ≤ p.length) (st : TextStrip) (dst : Fin 2)
    (k : Nat) (unit : FieldUnit) (opt : Bool) (dflt : Word) (fs : List Field) :
    decodeFields st p (.text dst off len k unit opt dflt :: fs) =
      (decodeFields st p fs).map (fun r => (r.1, ⟨dst, strip st (memReadBytes p off len)⟩ :: r.2)) := by
  simp [decodeFields, inBounds, h]

/-- One mandatory field that does not fit truncates the payload, wherever it stands. -/
theorem decodeFields_short (st : TextStrip) (p : List Byte) :
    ∀ fs : List Field, (∃ f ∈ fs, fieldOpt f = false ∧ ¬ fieldOff f + fieldSize f ≤ p.length) →
      decodeFields st p fs = none := by
  intro fs
  induction fs with
  | nil => rintro ⟨f, h, -⟩; simp at h
  | cons g gs ih =>
    rintro ⟨f, hf, ho, hs⟩
    rcases List.mem_cons.1 hf with rfl | hf
    · cases f <;>
      · simp only [fieldOpt, fieldOff, fieldSize] at ho hs
        simp [decodeFields, inBounds, ho, hs]
    · have h := ih ⟨f, hf, ho, hs⟩
      cases g <;> simp [decodeFields, h]

/-- A field register that one decoded field names holds that field's value. -/
theorem fieldValue_of_mem {l : List FieldVal} (h : (l.map (·.reg)).Nodup) {v : FieldVal} (hv : v ∈ l) :
    fieldValue l v.reg.val = some v.value := by
  induction l with
  | nil => simp at hv
  | cons x l ih =>
    simp only [List.map_cons, List.nodup_cons] at h
    rcases List.mem_cons.1 hv with rfl | hv
    · simp [fieldValue]
    · have hne : ¬ x.reg.val = v.reg.val := fun e => h.1 (Fin.ext e ▸ List.mem_map_of_mem hv)
      simpa [fieldValue, hne] using ih h.2 hv

/-- A text register that one decoded text names holds that text. -/
theorem textValue_of_mem {l : List TextVal} (h : (l.map (·.reg)).Nodup) {v : TextVal} (hv : v ∈ l) :
    textValue l v.reg.val = some v.bytes := by
  induction l with
  | nil => simp at hv
  | cons x l ih =>
    simp only [List.map_cons, List.nodup_cons] at h
    rcases List.mem_cons.1 hv with rfl | hv
    · simp [textValue]
    · have hne : ¬ x.reg.val = v.reg.val := fun e => h.1 (Fin.ext e ▸ List.mem_map_of_mem hv)
      simpa [textValue, hne] using ih h.2 hv

/-- Stripping only shortens. -/
theorem strip_length_le (st : TextStrip) (s : List Byte) : (strip st s).length ≤ s.length := by
  cases st with
  | trailing =>
    have h := List.length_dropWhile_le (fun b : Byte => b == 0) s.reverse
    simpa [strip, stripTrailing] using h
  | all => exact List.length_filter_le _ _

/-- What `Resolve` answers does not depend on the counter of free values: it reads the two fields the layout names, or a free
value that the frame and the configuration fix (42_dispatch R178, R180; log 22). -/
theorem ackPart_recordFile {s1 s2 : State} (h : s1.cfg = s2.cfg) (v : Variant) (c i : Byte) (p : List Byte) (b : Decoded) :
    ackPart s1.cfg v (recordFile v c i p b s1) = ackPart s2.cfg v (recordFile v c i p b s2) := by
  cases v <;> simp [ackPart, resolveAck, recordFile, fieldFile, unnamedField, h]

/-- The acknowledgement registers leave every other record register. -/
theorem ackRegs_others (draw : Nat) (ack : Option AckName) (r : RecRegs) :
    ackRegs draw ack r = { r with ackFound := (ackRegs draw ack r).ackFound, ackName := (ackRegs draw ack r).ackName } := by
  rcases ack with _ | _ | _ <;> rfl

end Sys2Proof.Machine
end

