-- ==== Sys2Proof/Laws/State.lean ====
section
/-! SUPPORT. What each named update does to each field of the state. -/

namespace Sys2Proof.Machine

variable (s : State)

@[simp] theorem emit_mode (e : OutEvent) : (emit e s).mode = s.mode := rfl
@[simp] theorem emit_phase (e : OutEvent) : (emit e s).phase = s.phase := rfl
@[simp] theorem emit_cnt (e : OutEvent) : (emit e s).cnt = s.cnt := rfl
@[simp] theorem emit_cls (e : OutEvent) : (emit e s).cls = s.cls := rfl
@[simp] theorem emit_id (e : OutEvent) : (emit e s).id = s.id := rfl
@[simp] theorem emit_len (e : OutEvent) : (emit e s).len = s.len := rfl
@[simp] theorem emit_cka (e : OutEvent) : (emit e s).cka = s.cka := rfl
@[simp] theorem emit_ckb (e : OutEvent) : (emit e s).ckb = s.ckb := rfl
@[simp] theorem emit_rxa (e : OutEvent) : (emit e s).rxa = s.rxa := rfl
@[simp] theorem emit_pbuf (e : OutEvent) : (emit e s).pbuf = s.pbuf := rfl
@[simp] theorem emit_record (e : OutEvent) : (emit e s).record = s.record := rfl
@[simp] theorem emit_err (e : OutEvent) : (emit e s).err = s.err := rfl
@[simp] theorem emit_cfg (e : OutEvent) : (emit e s).cfg = s.cfg := rfl
@[simp] theorem emit_cfgIn (e : OutEvent) : (emit e s).cfgIn = s.cfgIn := rfl
@[simp] theorem emit_inq (e : OutEvent) : (emit e s).inq = s.inq := rfl
@[simp] theorem emit_out (e : OutEvent) : (emit e s).out = s.out ++ [e] := rfl
@[simp] theorem emit_draws (e : OutEvent) : (emit e s).draws = s.draws := rfl

@[simp] theorem sumByte_mode (b : Byte) : (sumByte b s).mode = s.mode := rfl
@[simp] theorem sumByte_phase (b : Byte) : (sumByte b s).phase = s.phase := rfl
@[simp] theorem sumByte_cnt (b : Byte) : (sumByte b s).cnt = s.cnt := rfl
@[simp] theorem sumByte_cls (b : Byte) : (sumByte b s).cls = s.cls := rfl
@[simp] theorem sumByte_id (b : Byte) : (sumByte b s).id = s.id := rfl
@[simp] theorem sumByte_len (b : Byte) : (sumByte b s).len = s.len := rfl
@[simp] theorem sumByte_cka (b : Byte) : (sumByte b s).cka = (ck s.cfg.ckMod s.cka s.ckb b).1 := rfl
@[simp] theorem sumByte_ckb (b : Byte) : (sumByte b s).ckb = (ck s.cfg.ckMod s.cka s.ckb b).2 := rfl
@[simp] theorem sumByte_rxa (b : Byte) : (sumByte b s).rxa = s.rxa := rfl
@[simp] theorem sumByte_pbuf (b : Byte) : (sumByte b s).pbuf = s.pbuf := rfl
@[simp] theorem sumByte_record (b : Byte) : (sumByte b s).record = s.record := rfl
@[simp] theorem sumByte_err (b : Byte) : (sumByte b s).err = s.err := rfl
@[simp] theorem sumByte_cfg (b : Byte) : (sumByte b s).cfg = s.cfg := rfl
@[simp] theorem sumByte_cfgIn (b : Byte) : (sumByte b s).cfgIn = s.cfgIn := rfl
@[simp] theorem sumByte_inq (b : Byte) : (sumByte b s).inq = s.inq := rfl
@[simp] theorem sumByte_out (b : Byte) : (sumByte b s).out = s.out := rfl
@[simp] theorem sumByte_draws (b : Byte) : (sumByte b s).draws = s.draws := rfl

@[simp] theorem raiseErr_mode (e : ErrInfo) : (raiseErr e s).mode = s.mode := rfl
@[simp] theorem raiseErr_phase (e : ErrInfo) : (raiseErr e s).phase = s.phase := rfl
@[simp] theorem raiseErr_cnt (e : ErrInfo) : (raiseErr e s).cnt = s.cnt := rfl
@[simp] theorem raiseErr_cls (e : ErrInfo) : (raiseErr e s).cls = s.cls := rfl
@[simp] theorem raiseErr_id (e : ErrInfo) : (raiseErr e s).id = s.id := rfl
@[simp] theorem raiseErr_len (e : ErrInfo) : (raiseErr e s).len = s.len := rfl
@[simp] theorem raiseErr_cka (e : ErrInfo) : (raiseErr e s).cka = s.cka := rfl
@[simp] theorem raiseErr_ckb (e : ErrInfo) : (raiseErr e s).ckb = s.ckb := rfl
@[simp] theorem raiseErr_rxa (e : ErrInfo) : (raiseErr e s).rxa = s.rxa := rfl
@[simp] theorem raiseErr_pbuf (e : ErrInfo) : (raiseErr e s).pbuf = s.pbuf := rfl
@[simp] theorem raiseErr_record (e : ErrInfo) : (raiseErr e s).record = s.record := rfl
@[simp] theorem raiseErr_err (e : ErrInfo) : (raiseErr e s).err = errRegsAfter s.draws s.err e := rfl
@[simp] theorem raiseErr_cfg (e : ErrInfo) : (raiseErr e s).cfg = s.cfg := rfl
@[simp] theorem raiseErr_cfgIn (e : ErrInfo) : (raiseErr e s).cfgIn = s.cfgIn := rfl
@[simp] theorem raiseErr_inq (e : ErrInfo) : (raiseErr e s).inq = s.inq := rfl
@[simp] theorem raiseErr_out (e : ErrInfo) : (raiseErr e s).out = s.out ++ [.err e] := rfl
@[simp] theorem raiseErr_draws (e : ErrInfo) : (raiseErr e s).draws = s.draws + errDraws e := rfl

@[simp] theorem scanHunt_mode (b : Byte) : (scanHunt b s).mode = s.mode := rfl
@[simp] theorem scanHunt_phase (b : Byte) : (scanHunt b s).phase = if b = s.cfg.preamble0 then .sync1 else .hunt := rfl
@[simp] theorem scanHunt_cnt (b : Byte) : (scanHunt b s).cnt = s.cnt := rfl
@[simp] theorem scanHunt_cls (b : Byte) : (scanHunt b s).cls = s.cls := rfl
@[simp] theorem scanHunt_id (b : Byte) : (scanHunt b s).id = s.id := rfl
@[simp] theorem scanHunt_len (b : Byte) : (scanHunt b s).len = s.len := rfl
@[simp] theorem scanHunt_cka (b : Byte) : (scanHunt b s).cka = s.cka := rfl
@[simp] theorem scanHunt_ckb (b : Byte) : (scanHunt b s).ckb = s.ckb := rfl
@[simp] theorem scanHunt_rxa (b : Byte) : (scanHunt b s).rxa = s.rxa := rfl
@[simp] theorem scanHunt_pbuf (b : Byte) : (scanHunt b s).pbuf = s.pbuf := rfl
@[simp] theorem scanHunt_record (b : Byte) : (scanHunt b s).record = s.record := rfl
@[simp] theorem scanHunt_err (b : Byte) : (scanHunt b s).err = s.err := rfl
@[simp] theorem scanHunt_cfg (b : Byte) : (scanHunt b s).cfg = s.cfg := rfl
@[simp] theorem scanHunt_cfgIn (b : Byte) : (scanHunt b s).cfgIn = s.cfgIn := rfl
@[simp] theorem scanHunt_inq (b : Byte) : (scanHunt b s).inq = s.inq := rfl
@[simp] theorem scanHunt_out (b : Byte) : (scanHunt b s).out = s.out := rfl
@[simp] theorem scanHunt_draws (b : Byte) : (scanHunt b s).draws = s.draws := rfl

@[simp] theorem scanCls_mode (b : Byte) : (scanCls b s).mode = s.mode := rfl
@[simp] theorem scanCls_phase (b : Byte) : (scanCls b s).phase = .id := rfl
@[simp] theorem scanCls_cnt (b : Byte) : (scanCls b s).cnt = s.cnt := rfl
@[simp] theorem scanCls_cls (b : Byte) : (scanCls b s).cls = b := rfl
@[simp] theorem scanCls_id (b : Byte) : (scanCls b s).id = s.id := rfl
@[simp] theorem scanCls_len (b : Byte) : (scanCls b s).len = s.len := rfl
@[simp] theorem scanCls_cka (b : Byte) : (scanCls b s).cka = (ck s.cfg.ckMod s.cka s.ckb b).1 := rfl
@[simp] theorem scanCls_ckb (b : Byte) : (scanCls b s).ckb = (ck s.cfg.ckMod s.cka s.ckb b).2 := rfl
@[simp] theorem scanCls_rxa (b : Byte) : (scanCls b s).rxa = s.rxa := rfl
@[simp] theorem scanCls_pbuf (b : Byte) : (scanCls b s).pbuf = s.pbuf := rfl
@[simp] theorem scanCls_record (b : Byte) : (scanCls b s).record = s.record := rfl
@[simp] theorem scanCls_err (b : Byte) : (scanCls b s).err = s.err := rfl
@[simp] theorem scanCls_cfg (b : Byte) : (scanCls b s).cfg = s.cfg := rfl
@[simp] theorem scanCls_cfgIn (b : Byte) : (scanCls b s).cfgIn = s.cfgIn := rfl
@[simp] theorem scanCls_inq (b : Byte) : (scanCls b s).inq = s.inq := rfl
@[simp] theorem scanCls_out (b : Byte) : (scanCls b s).out = s.out := rfl
@[simp] theorem scanCls_draws (b : Byte) : (scanCls b s).draws = s.draws := rfl

@[simp] theorem scanId_mode (b : Byte) : (scanId b s).mode = s.mode := rfl
@[simp] theorem scanId_phase (b : Byte) : (scanId b s).phase = .len0 := rfl
@[simp] theorem scanId_cnt (b : Byte) : (scanId b s).cnt = s.cnt := rfl
@[simp] theorem scanId_cls (b : Byte) : (scanId b s).cls = s.cls := rfl
@[simp] theorem scanId_id (b : Byte) : (scanId b s).id = b := rfl
@[simp] theorem scanId_len (b : Byte) : (scanId b s).len = s.len := rfl
@[simp] theorem scanId_cka (b : Byte) : (scanId b s).cka = (ck s.cfg.ckMod s.cka s.ckb b).1 := rfl
@[simp] theorem scanId_ckb (b : Byte) : (scanId b s).ckb = (ck s.cfg.ckMod s.cka s.ckb b).2 := rfl
@[simp] theorem scanId_rxa (b : Byte) : (scanId b s).rxa = s.rxa := rfl
@[simp] theorem scanId_pbuf (b : Byte) : (scanId b s).pbuf = s.pbuf := rfl
@[simp] theorem scanId_record (b : Byte) : (scanId b s).record = s.record := rfl
@[simp] theorem scanId_err (b : Byte) : (scanId b s).err = s.err := rfl
@[simp] theorem scanId_cfg (b : Byte) : (scanId b s).cfg = s.cfg := rfl
@[simp] theorem scanId_cfgIn (b : Byte) : (scanId b s).cfgIn = s.cfgIn := rfl
@[simp] theorem scanId_inq (b : Byte) : (scanId b s).inq = s.inq := rfl
@[simp] theorem scanId_out (b : Byte) : (scanId b s).out = s.out := rfl
@[simp] theorem scanId_draws (b : Byte) : (scanId b s).draws = s.draws := rfl

@[simp] theorem scanLen0_mode (b : Byte) : (scanLen0 b s).mode = s.mode := rfl
@[simp] theorem scanLen0_phase (b : Byte) : (scanLen0 b s).phase = .len1 := rfl
@[simp] theorem scanLen0_cnt (b : Byte) : (scanLen0 b s).cnt = s.cnt := rfl
@[simp] theorem scanLen0_cls (b : Byte) : (scanLen0 b s).cls = s.cls := rfl
@[simp] theorem scanLen0_id (b : Byte) : (scanLen0 b s).id = s.id := rfl
@[simp] theorem scanLen0_len (b : Byte) : (scanLen0 b s).len = halfOf (hiByte s.len) b := rfl
@[simp] theorem scanLen0_cka (b : Byte) : (scanLen0 b s).cka = (ck s.cfg.ckMod s.cka s.ckb b).1 := rfl
@[simp] theorem scanLen0_ckb (b : Byte) : (scanLen0 b s).ckb = (ck s.cfg.ckMod s.cka s.ckb b).2 := rfl
@[simp] theorem scanLen0_rxa (b : Byte) : (scanLen0 b s).rxa = s.rxa := rfl
@[simp] theorem scanLen0_pbuf (b : Byte) : (scanLen0 b s).pbuf = s.pbuf := rfl
@[simp] theorem scanLen0_record (b : Byte) : (scanLen0 b s).record = s.record := rfl
@[simp] theorem scanLen0_err (b : Byte) : (scanLen0 b s).err = s.err := rfl
@[simp] theorem scanLen0_cfg (b : Byte) : (scanLen0 b s).cfg = s.cfg := rfl
@[simp] theorem scanLen0_cfgIn (b : Byte) : (scanLen0 b s).cfgIn = s.cfgIn := rfl
@[simp] theorem scanLen0_inq (b : Byte) : (scanLen0 b s).inq = s.inq := rfl
@[simp] theorem scanLen0_out (b : Byte) : (scanLen0 b s).out = s.out := rfl
@[simp] theorem scanLen0_draws (b : Byte) : (scanLen0 b s).draws = s.draws := rfl

@[simp] theorem scanLen1_mode (b : Byte) : (scanLen1 b s).mode = s.mode := rfl
@[simp] theorem scanLen1_phase (b : Byte) : (scanLen1 b s).phase = if lenZero b s then .ck0 else .payload := rfl
@[simp] theorem scanLen1_cnt (b : Byte) : (scanLen1 b s).cnt = 0 := rfl
@[simp] theorem scanLen1_cls (b : Byte) : (scanLen1 b s).cls = s.cls := rfl
@[simp] theorem scanLen1_id (b : Byte) : (scanLen1 b s).id = s.id := rfl
@[simp] theorem scanLen1_len (b : Byte) : (scanLen1 b s).len = halfOf b (loByte s.len) := rfl
@[simp] theorem scanLen1_cka (b : Byte) : (scanLen1 b s).cka = (ck s.cfg.ckMod s.cka s.ckb b).1 := rfl
@[simp] theorem scanLen1_ckb (b : Byte) : (scanLen1 b s).ckb = (ck s.cfg.ckMod s.cka s.ckb b).2 := rfl
@[simp] theorem scanLen1_rxa (b : Byte) : (scanLen1 b s).rxa = s.rxa := rfl
@[simp] theorem scanLen1_pbuf (b : Byte) : (scanLen1 b s).pbuf = s.pbuf := rfl
@[simp] theorem scanLen1_record (b : Byte) : (scanLen1 b s).record = s.record := rfl
@[simp] theorem scanLen1_err (b : Byte) : (scanLen1 b s).err = s.err := rfl
@[simp] theorem scanLen1_cfg (b : Byte) : (scanLen1 b s).cfg = s.cfg := rfl
@[simp] theorem scanLen1_cfgIn (b : Byte) : (scanLen1 b s).cfgIn = s.cfgIn := rfl
@[simp] theorem scanLen1_inq (b : Byte) : (scanLen1 b s).inq = s.inq := rfl
@[simp] theorem scanLen1_out (b : Byte) : (scanLen1 b s).out = s.out := rfl
@[simp] theorem scanLen1_draws (b : Byte) : (scanLen1 b s).draws = s.draws := rfl

@[simp] theorem scanCk0_mode (b : Byte) : (scanCk0 b s).mode = s.mode := rfl
@[simp] theorem scanCk0_phase (b : Byte) : (scanCk0 b s).phase = .ck1 := rfl
@[simp] theorem scanCk0_cnt (b : Byte) : (scanCk0 b s).cnt = s.cnt := rfl
@[simp] theorem scanCk0_cls (b : Byte) : (scanCk0 b s).cls = s.cls := rfl
@[simp] theorem scanCk0_id (b : Byte) : (scanCk0 b s).id = s.id := rfl
@[simp] theorem scanCk0_len (b : Byte) : (scanCk0 b s).len = s.len := rfl
@[simp] theorem scanCk0_cka (b : Byte) : (scanCk0 b s).cka = s.cka := rfl
@[simp] theorem scanCk0_ckb (b : Byte) : (scanCk0 b s).ckb = s.ckb := rfl
@[simp] theorem scanCk0_rxa (b : Byte) : (scanCk0 b s).rxa = b := rfl
@[simp] theorem scanCk0_pbuf (b : Byte) : (scanCk0 b s).pbuf = s.pbuf := rfl
@[simp] theorem scanCk0_record (b : Byte) : (scanCk0 b s).record = s.record := rfl
@[simp] theorem scanCk0_err (b : Byte) : (scanCk0 b s).err = s.err := rfl
@[simp] theorem scanCk0_cfg (b : Byte) : (scanCk0 b s).cfg = s.cfg := rfl
@[simp] theorem scanCk0_cfgIn (b : Byte) : (scanCk0 b s).cfgIn = s.cfgIn := rfl
@[simp] theorem scanCk0_inq (b : Byte) : (scanCk0 b s).inq = s.inq := rfl
@[simp] theorem scanCk0_out (b : Byte) : (scanCk0 b s).out = s.out := rfl
@[simp] theorem scanCk0_draws (b : Byte) : (scanCk0 b s).draws = s.draws := rfl

@[simp] theorem deliverRaw_mode (c i : Byte) (n : Half) (p : List Byte) (name : Option Nat) : (deliverRaw c i n p name s).mode = s.mode := rfl
@[simp] theorem deliverRaw_phase (c i : Byte) (n : Half) (p : List Byte) (name : Option Nat) : (deliverRaw c i n p name s).phase = s.phase := rfl
@[simp] theorem deliverRaw_cnt (c i : Byte) (n : Half) (p : List Byte) (name : Option Nat) : (deliverRaw c i n p name s).cnt = s.cnt := rfl
@[simp] theorem deliverRaw_cls (c i : Byte) (n : Half) (p : List Byte) (name : Option Nat) : (deliverRaw c i n p name s).cls = s.cls := rfl
@[simp] theorem deliverRaw_id (c i : Byte) (n : Half) (p : List Byte) (name : Option Nat) : (deliverRaw c i n p name s).id = s.id := rfl
@[simp] theorem deliverRaw_len (c i : Byte) (n : Half) (p : List Byte) (name : Option Nat) : (deliverRaw c i n p name s).len = s.len := rfl
@[simp] theorem deliverRaw_cka (c i : Byte) (n : Half) (p : List Byte) (name : Option Nat) : (deliverRaw c i n p name s).cka = s.cka := rfl
@[simp] theorem deliverRaw_ckb (c i : Byte) (n : Half) (p : List Byte) (name : Option Nat) : (deliverRaw c i n p name s).ckb = s.ckb := rfl
@[simp] theorem deliverRaw_rxa (c i : Byte) (n : Half) (p : List Byte) (name : Option Nat) : (deliverRaw c i n p name s).rxa = s.rxa := rfl
@[simp] theorem deliverRaw_pbuf (c i : Byte) (n : Half) (p : List Byte) (name : Option Nat) : (deliverRaw c i n p name s).pbuf = s.pbuf := rfl
@[simp] theorem deliverRaw_err (c i : Byte) (n : Half) (p : List Byte) (name : Option Nat) : (deliverRaw c i n p name s).err = s.err := rfl
@[simp] theorem deliverRaw_cfg (c i : Byte) (n : Half) (p : List Byte) (name : Option Nat) : (deliverRaw c i n p name s).cfg = s.cfg := rfl
@[simp] theorem deliverRaw_cfgIn (c i : Byte) (n : Half) (p : List Byte) (name : Option Nat) : (deliverRaw c i n p name s).cfgIn = s.cfgIn := rfl
@[simp] theorem deliverRaw_inq (c i : Byte) (n : Half) (p : List Byte) (name : Option Nat) : (deliverRaw c i n p name s).inq = s.inq := rfl
@[simp] theorem deliverRaw_out (c i : Byte) (n : Half) (p : List Byte) (name : Option Nat) : (deliverRaw c i n p name s).out = s.out ++ [.record (.raw c i n name p)] := rfl
@[simp] theorem deliverRaw_draws (c i : Byte) (n : Half) (p : List Byte) (name : Option Nat) : (deliverRaw c i n p name s).draws = s.draws + 1 := rfl

@[simp] theorem deliverDecoded_mode (v : Variant) (c i : Byte) (n : Half) (p : List Byte) (r : Nat) (b : Decoded) : (deliverDecoded v c i n p r b s).mode = s.mode := rfl
@[simp] theorem deliverDecoded_phase (v : Variant) (c i : Byte) (n : Half) (p : List Byte) (r : Nat) (b : Decoded) : (deliverDecoded v c i n p r b s).phase = s.phase := rfl
@[simp] theorem deliverDecoded_cnt (v : Variant) (c i : Byte) (n : Half) (p : List Byte) (r : Nat) (b : Decoded) : (deliverDecoded v c i n p r b s).cnt = s.cnt := rfl
@[simp] theorem deliverDecoded_cls (v : Variant) (c i : Byte) (n : Half) (p : List Byte) (r : Nat) (b : Decoded) : (deliverDecoded v c i n p r b s).cls = s.cls := rfl
@[simp] theorem deliverDecoded_id (v : Variant) (c i : Byte) (n : Half) (p : List Byte) (r : Nat) (b : Decoded) : (deliverDecoded v c i n p r b s).id = s.id := rfl
@[simp] theorem deliverDecoded_len (v : Variant) (c i : Byte) (n : Half) (p : List Byte) (r : Nat) (b : Decoded) : (deliverDecoded v c i n p r b s).len = s.len := rfl
@[simp] theorem deliverDecoded_cka (v : Variant) (c i : Byte) (n : Half) (p : List Byte) (r : Nat) (b : Decoded) : (deliverDecoded v c i n p r b s).cka = s.cka := rfl
@[simp] theorem deliverDecoded_ckb (v : Variant) (c i : Byte) (n : Half) (p : List Byte) (r : Nat) (b : Decoded) : (deliverDecoded v c i n p r b s).ckb = s.ckb := rfl
@[simp] theorem deliverDecoded_rxa (v : Variant) (c i : Byte) (n : Half) (p : List Byte) (r : Nat) (b : Decoded) : (deliverDecoded v c i n p r b s).rxa = s.rxa := rfl
@[simp] theorem deliverDecoded_pbuf (v : Variant) (c i : Byte) (n : Half) (p : List Byte) (r : Nat) (b : Decoded) : (deliverDecoded v c i n p r b s).pbuf = s.pbuf := rfl
@[simp] theorem deliverDecoded_err (v : Variant) (c i : Byte) (n : Half) (p : List Byte) (r : Nat) (b : Decoded) : (deliverDecoded v c i n p r b s).err = s.err := rfl
@[simp] theorem deliverDecoded_cfg (v : Variant) (c i : Byte) (n : Half) (p : List Byte) (r : Nat) (b : Decoded) : (deliverDecoded v c i n p r b s).cfg = s.cfg := rfl
@[simp] theorem deliverDecoded_cfgIn (v : Variant) (c i : Byte) (n : Half) (p : List Byte) (r : Nat) (b : Decoded) : (deliverDecoded v c i n p r b s).cfgIn = s.cfgIn := rfl
@[simp] theorem deliverDecoded_inq (v : Variant) (c i : Byte) (n : Half) (p : List Byte) (r : Nat) (b : Decoded) : (deliverDecoded v c i n p r b s).inq = s.inq := rfl
@[simp] theorem deliverDecoded_out (v : Variant) (c i : Byte) (n : Half) (p : List Byte) (r : Nat) (b : Decoded) : (deliverDecoded v c i n p r b s).out = s.out ++ [.record (.decoded v c i n r b (ackPart s.cfg v (recordFile v c i p b s)))] := rfl
@[simp] theorem deliverDecoded_draws (v : Variant) (c i : Byte) (n : Half) (p : List Byte) (r : Nat) (b : Decoded) : (deliverDecoded v c i n p r b s).draws = s.draws + 1 := rfl

@[simp] theorem deliverFailure_mode (e : DecodeFail) (c i : Byte) (n : Half) : (deliverFailure e c i n s).mode = s.mode := rfl
@[simp] theorem deliverFailure_phase (e : DecodeFail) (c i : Byte) (n : Half) : (deliverFailure e c i n s).phase = s.phase := rfl
@[simp] theorem deliverFailure_cnt (e : DecodeFail) (c i : Byte) (n : Half) : (deliverFailure e c i n s).cnt = s.cnt := rfl
@[simp] theorem deliverFailure_cls (e : DecodeFail) (c i : Byte) (n : Half) : (deliverFailure e c i n s).cls = s.cls := rfl
@[simp] theorem deliverFailure_id (e : DecodeFail) (c i : Byte) (n : Half) : (deliverFailure e c i n s).id = s.id := rfl
@[simp] theorem deliverFailure_len (e : DecodeFail) (c i : Byte) (n : Half) : (deliverFailure e c i n s).len = s.len := rfl
@[simp] theorem deliverFailure_cka (e : DecodeFail) (c i : Byte) (n : Half) : (deliverFailure e c i n s).cka = s.cka := rfl
@[simp] theorem deliverFailure_ckb (e : DecodeFail) (c i : Byte) (n : Half) : (deliverFailure e c i n s).ckb = s.ckb := rfl
@[simp] theorem deliverFailure_rxa (e : DecodeFail) (c i : Byte) (n : Half) : (deliverFailure e c i n s).rxa = s.rxa := rfl
@[simp] theorem deliverFailure_pbuf (e : DecodeFail) (c i : Byte) (n : Half) : (deliverFailure e c i n s).pbuf = s.pbuf := rfl
@[simp] theorem deliverFailure_record (e : DecodeFail) (c i : Byte) (n : Half) : (deliverFailure e c i n s).record = freeRec s.cfg.tmax s.draws := rfl
@[simp] theorem deliverFailure_err (e : DecodeFail) (c i : Byte) (n : Half) : (deliverFailure e c i n s).err = errRegsAfter (s.draws + 1) s.err (failInfo e c i n) := rfl
@[simp] theorem deliverFailure_cfg (e : DecodeFail) (c i : Byte) (n : Half) : (deliverFailure e c i n s).cfg = s.cfg := rfl
@[simp] theorem deliverFailure_cfgIn (e : DecodeFail) (c i : Byte) (n : Half) : (deliverFailure e c i n s).cfgIn = s.cfgIn := rfl
@[simp] theorem deliverFailure_inq (e : DecodeFail) (c i : Byte) (n : Half) : (deliverFailure e c i n s).inq = s.inq := rfl
@[simp] theorem deliverFailure_out (e : DecodeFail) (c i : Byte) (n : Half) : (deliverFailure e c i n s).out = s.out ++ [.err (failInfo e c i n)] := rfl
@[simp] theorem deliverFailure_draws (e : DecodeFail) (c i : Byte) (n : Half) : (deliverFailure e c i n s).draws = s.draws + 1 + errDraws (failInfo e c i n) := rfl

@[simp] theorem resetRegs_mode : (resetRegs s).mode = s.mode := rfl
@[simp] theorem resetRegs_phase : (resetRegs s).phase = .hunt := rfl
@[simp] theorem resetRegs_cnt : (resetRegs s).cnt = 0 := rfl
@[simp] theorem resetRegs_cls : (resetRegs s).cls = 0 := rfl
@[simp] theorem resetRegs_id : (resetRegs s).id = 0 := rfl
@[simp] theorem resetRegs_len : (resetRegs s).len = 0 := rfl
@[simp] theorem resetRegs_cka : (resetRegs s).cka = 0 := rfl
@[simp] theorem resetRegs_ckb : (resetRegs s).ckb = 0 := rfl
@[simp] theorem resetRegs_rxa : (resetRegs s).rxa = 0 := rfl
@[simp] theorem resetRegs_pbuf : (resetRegs s).pbuf = [] := rfl
@[simp] theorem resetRegs_record : (resetRegs s).record = freeRec s.cfgIn.tmax s.draws := rfl
@[simp] theorem resetRegs_err : (resetRegs s).err = freeErr s.draws := rfl
@[simp] theorem resetRegs_cfg : (resetRegs s).cfg = s.cfgIn := rfl
@[simp] theorem resetRegs_cfgIn : (resetRegs s).cfgIn = s.cfgIn := rfl
@[simp] theorem resetRegs_inq : (resetRegs s).inq = s.inq := rfl
@[simp] theorem resetRegs_out : (resetRegs s).out = s.out := rfl
@[simp] theorem resetRegs_draws : (resetRegs s).draws = s.draws + 1 := rfl

end Sys2Proof.Machine
end

