-- ==== Sys2Proof/Laws/Ops.lean ====
section
/-! SUPPORT. What each shared operation can do, said once: sequencing, the scanner's operations, dispatch, TX requests. -/

namespace Sys2Proof.Machine

@[simp] theorem andThen_next (s : State) (f : State → Res) : andThen (.next s) f = f s := rfl
@[simp] theorem andThen_fault (e : Fault) (f : State → Res) : andThen (.fault e) f = .fault e := rfl
@[simp] theorem andThen_refused (e : Refusal) (f : State → Res) : andThen (.refused e) f = .refused e := rfl

/-- A sequence answers exactly when both parts do. -/
theorem andThen_eq_next {r : Res} {f : State → Res} {u : State} :
    andThen r f = .next u ↔ ∃ t, r = .next t ∧ f t = .next u := by
  cases r <;> simp

theorem andThen_assoc (r : Res) (f g : State → Res) :
    andThen (andThen r f) g = andThen r (fun s => andThen (f s) g) := by
  cases r <;> rfl

@[simp] theorem feed_nil (s : State) : feed [] s = .next s := rfl
theorem feed_cons (b : Byte) (bs : List Byte) (s : State) : feed (b :: bs) s = andThen (takeByte b s) (feed bs) := rfl

/-- Feeding is compositional. -/
theorem feed_append (xs ys : List Byte) (s : State) : feed (xs ++ ys) s = andThen (feed xs s) (feed ys) := by
  induction xs generalizing s with
  | nil => rfl
  | cons b xs ih =>
    rw [List.cons_append, feed_cons, feed_cons, andThen_assoc]
    congr 1
    funext t
    exact ih t

theorem takeByte_run {s : State} (h : s.mode = .run) (b : Byte) : takeByte b s = scanByte b s := by simp [takeByte, h]
theorem takeByte_halt {s : State} (h : s.mode = .halt) (b : Byte) : takeByte b s = .next s := by simp [takeByte, h]

theorem feed_halt {s : State} (h : s.mode = .halt) (bs : List Byte) : feed bs s = .next s := by
  induction bs with
  | nil => rfl
  | cons b bs ih => rw [feed_cons, takeByte_halt h, andThen_next, ih]

/-- A row `BYTE.<PHASE>` in mode `RUN` and in its phase is the rule of the phase. -/
theorem inPhase_hit {s : State} {row : Phase} (h : s.mode = .run) (hp : s.phase = row) (rule : Byte → State → Res) (d : Byte) :
    inPhase row rule d s = rule d s := by
  rw [inPhase, if_pos ⟨h, hp⟩]

/-- Elsewhere it is the taking of a `BYTE`. -/
theorem inPhase_miss {s : State} {row : Phase} (h : ¬ (s.mode = .run ∧ s.phase = row)) (rule : Byte → State → Res)
    (d : Byte) : inPhase row rule d s = takeByte d s := by
  rw [inPhase, if_neg h]

theorem execByteHunt_hit {s : State} (h : s.mode = .run) (hp : s.phase = .hunt) (d : Byte) :
    execByteHunt d s = .next (scanHunt d s) := by
  rw [execByteHunt, inPhase_hit h hp]

theorem execByteSync1_hit {s : State} (h : s.mode = .run) (hp : s.phase = .sync1) (d : Byte) :
    execByteSync1 d s = .next (scanSync1 d s) := by
  rw [execByteSync1, inPhase_hit h hp]

theorem execByteCls_hit {s : State} (h : s.mode = .run) (hp : s.phase = .cls) (d : Byte) :
    execByteCls d s = .next (scanCls d s) := by
  rw [execByteCls, inPhase_hit h hp]

theorem execByteId_hit {s : State} (h : s.mode = .run) (hp : s.phase = .id) (d : Byte) :
    execByteId d s = .next (scanId d s) := by
  rw [execByteId, inPhase_hit h hp]

theorem execByteLen0_hit {s : State} (h : s.mode = .run) (hp : s.phase = .len0) (d : Byte) :
    execByteLen0 d s = .next (scanLen0 d s) := by
  rw [execByteLen0, inPhase_hit h hp]

theorem execByteLen1_hit {s : State} (h : s.mode = .run) (hp : s.phase = .len1) (d : Byte) :
    execByteLen1 d s = .next (scanLen1 d s) := by
  rw [execByteLen1, inPhase_hit h hp]

theorem execBytePayload_hit {s : State} (h : s.mode = .run) (hp : s.phase = .payload) (d : Byte) :
    execBytePayload d s = scanPayload d s := by
  rw [execBytePayload, inPhase_hit h hp]

theorem execByteCk0_hit {s : State} (h : s.mode = .run) (hp : s.phase = .ck0) (d : Byte) :
    execByteCk0 d s = .next (scanCk0 d s) := by
  rw [execByteCk0, inPhase_hit h hp]

theorem execByteCk1_hit {s : State} (h : s.mode = .run) (hp : s.phase = .ck1) (d : Byte) :
    execByteCk1 d s = scanCk1 d s := by
  rw [execByteCk1, inPhase_hit h hp]

/-- The identities that `RAW` takes. -/
theorem namedIdentity_eq_false (c i : Byte) :
    namedIdentity c i = false ↔
      ¬ (c = 0x01 ∧ i = 0x07) ∧ ¬ (c = 0x01 ∧ i = 0x30) ∧ ¬ (c = 0x06 ∧ i = 0x00) ∧ ¬ (c = 0x06 ∧ i = 0x01) ∧
        ¬ (c = 0x0A ∧ i = 0x04) ∧ ¬ (c = 0x05 ∧ i = 0x01) ∧ ¬ (c = 0x05 ∧ i = 0x00) := by
  simp only [namedIdentity, Bool.or_eq_false_iff, and_assoc, Bool.and_eq_false_iff, beq_eq_false_iff_ne, not_and_or, ne_eq]

/-- Everything `EOC` can do. -/
theorem takeEoc_cases (s : State) :
    (takeEoc s = raiseErr .incompleteFrame s ∧ s.mode = .run ∧ s.phase ≠ .hunt) ∨
      (takeEoc s = s ∧ (s.mode = .halt ∨ s.phase = .hunt)) := by
  by_cases hm : s.mode = .run
  · by_cases hp : s.phase = .hunt
    · right; simp [takeEoc, hm, inFrame, hp]
    · left; simp [takeEoc, hm, inFrame, hp]
  · right
    have : s.mode = .halt := by cases h : s.mode <;> simp_all
    simp [takeEoc, this]

/-- Everything a TX request can do. -/
theorem sendFrame_cases (c i : Byte) (p : List Byte) (s : State) :
    (sendFrame c i p s = emit (.txframe (buildFrame s.cfg c i p)) s ∧ s.mode = .run) ∨
      (sendFrame c i p s = s ∧ s.mode = .halt) := by
  cases h : s.mode <;> simp [sendFrame, h]

/-- Everything `scanSync1` can do. -/
theorem scanSync1_cases (b : Byte) (s : State) :
    (b = s.cfg.preamble1 ∧ scanSync1 b s = { s with cka := 0, ckb := 0, phase := .cls }) ∨
      (b ≠ s.cfg.preamble1 ∧ b = s.cfg.preamble0 ∧ scanSync1 b s = { s with phase := .sync1 }) ∨
      (b ≠ s.cfg.preamble1 ∧ b ≠ s.cfg.preamble0 ∧ scanSync1 b s = { s with phase := .hunt }) := by
  by_cases h1 : b = s.cfg.preamble1
  · exact .inl ⟨h1, by rw [scanSync1, if_pos h1]⟩
  · by_cases h0 : b = s.cfg.preamble0
    · exact .inr (.inl ⟨h1, h0, by rw [scanSync1, if_neg h1, if_pos h0]⟩)
    · exact .inr (.inr ⟨h1, h0, by rw [scanSync1, if_neg h1, if_neg h0]⟩)

/-- Everything a `PAYLOAD` byte can do. -/
theorem scanPayload_cases (b : Byte) (s : State) :
    (s.cnt.toNat < s.cfg.pmax ∧
        scanPayload b s =
          .next
            { sumByte b s with
              pbuf := pbufWrite s.pbuf s.cnt.toNat b
              phase := if lastByte s then .ck0 else .payload
              cnt := s.cnt + 1 }) ∨
      (s.cfg.pmax ≤ s.cnt.toNat ∧ scanPayload b s = .fault .pbufAddress) := by
  by_cases h : s.cnt.toNat < s.cfg.pmax
  · exact .inl ⟨h, by rw [scanPayload, if_pos h]⟩
  · exact .inr ⟨by omega, by rw [scanPayload, if_neg h]⟩

/-- The identity of an identity-table row that a lookup finds. -/
theorem lookupFrom_found {c i : Byte} {k : Nat} {rows : List IdRow} {r : Nat} {row : IdRow}
    (h : lookupFrom c i k rows = some (r, row)) : k ≤ r ∧ rows[r - k]? = some row ∧ row.cls = c ∧ row.id = i := by
  induction rows generalizing k with
  | nil => simp [lookupFrom] at h
  | cons x xs ih =>
    rw [lookupFrom] at h
    split at h
    · rename_i hx
      obtain ⟨rfl, rfl⟩ : k = r ∧ x = row := by simpa using h
      simp [hx]
    · obtain ⟨h1, h2, h3⟩ := ih h
      refine ⟨by omega, ?_, h3⟩
      rw [show r - k = (r - (k + 1)) + 1 by omega]
      simpa using h2

/-- Everything a dispatch can do when it answers: a raw record, a decoded record, or a decode failure. -/
theorem dispatch_cases {c i : Byte} {n : Half} {p : List Byte} {s t : State} (h : dispatch c i n p s = .next t) :
    (∃ name, t = deliverRaw c i n p name s) ∨
      (∃ r row v l b, lookup s.cfg c i = some (r, row) ∧ row.tag ≠ 0 ∧ usableLayout s.cfg row.tag = some (v, l) ∧
        decodePayload s.cfg l p = .ok b ∧ t = deliverDecoded v c i n p r b s) ∨
      (∃ r row v l e, lookup s.cfg c i = some (r, row) ∧ row.tag ≠ 0 ∧ usableLayout s.cfg row.tag = some (v, l) ∧
        decodePayload s.cfg l p = .error e ∧ t = deliverFailure e c i n s) := by
  rw [dispatch] at h
  split at h
  · exact .inl ⟨none, by simpa using h.symm⟩
  · rename_i r row hl
    split at h
    · exact .inl ⟨some r, by simpa using h.symm⟩
    · rename_i ht
      split at h
      · simp at h
      · rename_i v l hu
        split at h
        · rename_i b hd
          exact .inr (.inl ⟨r, row, v, l, b, hl, ht, hu, hd, by simpa using h.symm⟩)
        · rename_i e hd
          exact .inr (.inr ⟨r, row, v, l, e, hl, ht, hu, hd, by simpa using h.symm⟩)

/-- The only stop of a dispatch is a row whose tag or layout breaks 42_dispatch R176. -/
theorem dispatch_stops {c i : Byte} {n : Half} {p : List Byte} {s : State} (h : ¬ Answers (dispatch c i n p s)) :
    ∃ r row, lookup s.cfg c i = some (r, row) ∧ row.tag ≠ 0 ∧ usableLayout s.cfg row.tag = none := by
  rw [dispatch] at h
  split at h
  · exact absurd ⟨_, rfl⟩ h
  · rename_i r row hl
    split at h
    · exact absurd ⟨_, rfl⟩ h
    · rename_i ht
      split at h
      · rename_i hu
        exact ⟨r, row, hl, ht, hu⟩
      · split at h <;> exact absurd ⟨_, rfl⟩ h

/-- Under valid tables every row a lookup finds has tag 0 or a usable layout. -/
theorem usableLayout_of_valid {cfg : Config} (hv : tablesValid cfg = true) {c i : Byte} {r : Nat} {row : IdRow}
    (hl : lookup cfg c i = some (r, row)) (ht : row.tag ≠ 0) : ∃ v l, usableLayout cfg row.tag = some (v, l) := by
  obtain ⟨-, hrow, -⟩ := lookupFrom_found hl
  have hmem : row ∈ cfg.idt := List.mem_of_getElem? hrow
  simp only [tablesValid, idtValid, Bool.and_eq_true, List.all_eq_true] at hv
  obtain ⟨⟨⟨-, hrows⟩, hlay⟩, -⟩ := hv
  have h := hrows row hmem
  simp only [decide_eq_true_eq, Bool.or_eq_true, beq_iff_eq, ht, false_or] at h
  obtain ⟨hle, hsome⟩ := h
  obtain ⟨l, hlo⟩ := Option.isSome_iff_exists.1 hsome
  have hl' : layoutValid cfg l = true := by
    simp only [layoutOf, Option.map_eq_some_iff] at hlo
    obtain ⟨x, hx, rfl⟩ := hlo
    exact hlay x (List.mem_of_find?_eq_some hx)
  have hv' : ∃ v, variantOf row.tag = some v := by
    generalize row.tag = k at hle ⊢
    interval_cases k <;> exact ⟨_, rfl⟩
  obtain ⟨v, hv'⟩ := hv'
  exact ⟨v, l, by simp [usableLayout, hv', hlo, hl']⟩

/-- Under valid tables a dispatch answers. -/
theorem dispatch_answers {s : State} (hv : tablesValid s.cfg = true) (c i : Byte) (n : Half) (p : List Byte) :
    Answers (dispatch c i n p s) := by
  by_contra h
  obtain ⟨r, row, hl, ht, hu⟩ := dispatch_stops h
  obtain ⟨v, l, hu'⟩ := usableLayout_of_valid hv hl ht
  simp [hu] at hu'

/-- A checksum continues over an appended byte. -/
theorem cksumFrom_append (m : Nat) (ab : Byte × Byte) (xs ys : List Byte) :
    cksumFrom m ab (xs ++ ys) = cksumFrom m (cksumFrom m ab xs) ys := by
  induction xs generalizing ab with
  | nil => rfl
  | cons x xs ih => exact ih _

theorem cksum_snoc (m : Nat) (xs : List Byte) (x : Byte) :
    cksum m (xs ++ [x]) = ck m (cksum m xs).1 (cksum m xs).2 x := by
  simp [cksum, cksumFrom_append, cksumFrom]

@[simp] theorem loByte_halfOf (h l : Byte) : loByte (halfOf h l) = l := by
  apply BitVec.eq_of_toNat_eq
  have := h.isLt
  have := l.isLt
  simp only [loByte, halfOf, BitVec.toNat_ofNat]
  omega

@[simp] theorem hiByte_halfOf (h l : Byte) : hiByte (halfOf h l) = h := by
  apply BitVec.eq_of_toNat_eq
  have := h.isLt
  have := l.isLt
  simp only [hiByte, halfOf, BitVec.toNat_ofNat]
  omega

@[simp] theorem halfOf_hiByte_loByte (n : Half) : halfOf (hiByte n) (loByte n) = n := by
  apply BitVec.eq_of_toNat_eq
  have := n.isLt
  simp only [loByte, hiByte, halfOf, BitVec.toNat_ofNat]
  omega

end Sys2Proof.Machine
end

