-- ==== Sys2Proof/Laws/PerInstr.lean ====
section
/-! SUPPORT. One law per instruction: the shape of the instruction's encoding. -/

namespace Sys2Proof.Laws

/-- A word of stream bytes that stands for a well-formed instruction begins with the preamble, and after its six header
bytes come exactly the payload bytes its length field counts and two checksum bytes (30_encoding R90, R96). RX and TX words
carry no stream bytes. -/
def EncodedShape.Statement (i : Instr) : Prop :=
  i.wellFormed = true → ∀ bs : List Byte, encode i = .bytes bs →
    ∃ (c d l0 l1 : Byte) (rest : List Byte),
      bs = 0xB5 :: 0x62 :: c :: d :: l0 :: l1 :: rest ∧ rest.length = (Machine.halfOf l1 l0).toNat + 2

/-- The shape of a frame's bytes. -/
theorem tableFrame_shape (c d : Byte) (p : List Byte) (a b : Byte) (h : p.length ≤ 65535) (bs : List Byte)
    (hb : InWord.bytes (Machine.tableFrame c d p a b) = .bytes bs) :
    ∃ (c d l0 l1 : Byte) (rest : List Byte),
      bs = 0xB5 :: 0x62 :: c :: d :: l0 :: l1 :: rest ∧ rest.length = (Machine.halfOf l1 l0).toNat + 2 := by
  cases hb
  refine ⟨c, d, _, _, p ++ [a, b], rfl, ?_⟩
  simp only [List.length_append, List.length_cons, List.length_nil, Machine.halfOf, Machine.loByte, Machine.hiByte,
    BitVec.toNat_ofNat]
  omega

theorem EncodedShape.navPvt (p : List Byte) (a b : Byte) : EncodedShape.Statement (.navPvt p a b) := fun h =>
  tableFrame_shape 0x01 0x07 p a b (of_decide_eq_true h)

theorem EncodedShape.navSvinfo (p : List Byte) (a b : Byte) : EncodedShape.Statement (.navSvinfo p a b) := fun h =>
  tableFrame_shape 0x01 0x30 p a b (of_decide_eq_true h)

theorem EncodedShape.cfgPrt (p : List Byte) (a b : Byte) : EncodedShape.Statement (.cfgPrt p a b) := fun h =>
  tableFrame_shape 0x06 0x00 p a b (of_decide_eq_true h)

theorem EncodedShape.cfgMsg (p : List Byte) (a b : Byte) : EncodedShape.Statement (.cfgMsg p a b) := fun h =>
  tableFrame_shape 0x06 0x01 p a b (of_decide_eq_true h)

theorem EncodedShape.monVer (p : List Byte) (a b : Byte) : EncodedShape.Statement (.monVer p a b) := fun h =>
  tableFrame_shape 0x0A 0x04 p a b (of_decide_eq_true h)

theorem EncodedShape.ackAck (p : List Byte) (a b : Byte) : EncodedShape.Statement (.ackAck p a b) := fun h =>
  tableFrame_shape 0x05 0x01 p a b (of_decide_eq_true h)

theorem EncodedShape.ackNak (p : List Byte) (a b : Byte) : EncodedShape.Statement (.ackNak p a b) := fun h =>
  tableFrame_shape 0x05 0x00 p a b (of_decide_eq_true h)

theorem EncodedShape.raw (c d : Byte) (p : List Byte) (a b : Byte) : EncodedShape.Statement (.raw c d p a b) := fun h =>
  tableFrame_shape c d p a b (of_decide_eq_true (Bool.and_eq_true_iff.1 h).2)

theorem EncodedShape.rst : EncodedShape.Statement .rst := fun _ _ h => nomatch h
theorem EncodedShape.byte (d : Byte) : EncodedShape.Statement (.byte d) := fun _ _ h => nomatch h
theorem EncodedShape.byteHunt (d : Byte) : EncodedShape.Statement (.byteHunt d) := fun _ _ h => nomatch h
theorem EncodedShape.byteSync1 (d : Byte) : EncodedShape.Statement (.byteSync1 d) := fun _ _ h => nomatch h
theorem EncodedShape.byteCls (d : Byte) : EncodedShape.Statement (.byteCls d) := fun _ _ h => nomatch h
theorem EncodedShape.byteId (d : Byte) : EncodedShape.Statement (.byteId d) := fun _ _ h => nomatch h
theorem EncodedShape.byteLen0 (d : Byte) : EncodedShape.Statement (.byteLen0 d) := fun _ _ h => nomatch h
theorem EncodedShape.byteLen1 (d : Byte) : EncodedShape.Statement (.byteLen1 d) := fun _ _ h => nomatch h
theorem EncodedShape.bytePayload (d : Byte) : EncodedShape.Statement (.bytePayload d) := fun _ _ h => nomatch h
theorem EncodedShape.byteCk0 (d : Byte) : EncodedShape.Statement (.byteCk0 d) := fun _ _ h => nomatch h
theorem EncodedShape.byteCk1 (d : Byte) : EncodedShape.Statement (.byteCk1 d) := fun _ _ h => nomatch h
theorem EncodedShape.eoc : EncodedShape.Statement .eoc := fun _ _ h => nomatch h
theorem EncodedShape.byteEoc (d : Byte) : EncodedShape.Statement (.byteEoc d) := fun _ _ h => nomatch h
theorem EncodedShape.nop : EncodedShape.Statement .nop := fun _ _ h => nomatch h
theorem EncodedShape.poll (c j : Byte) : EncodedShape.Statement (.poll c j) := fun _ _ h => nomatch h

theorem EncodedShape.cfgmsg (c j r0 r1 r2 r3 r4 r5 : Byte) : EncodedShape.Statement (.cfgmsg c j r0 r1 r2 r3 r4 r5) :=
  fun _ _ h => nomatch h

theorem EncodedShape.txnop : EncodedShape.Statement .txnop := fun _ _ h => nomatch h

end Sys2Proof.Laws
end

