-- ==== Sys2Proof/Laws/Scanner.lean ====
section
/-! SUPPORT. Induction over runs of bytes, and what no byte and no request changes. -/

namespace Sys2Proof.Machine

/-- What holds of every `BYTE` that answers, of nothing, and of two runs in a row, holds of every run of bytes that
answers. -/
theorem feed_induction {P : State → State → Prop} (refl : ∀ s, P s s) (trans : ∀ r s t, P r s → P s t → P r t)
    (byte : ∀ b s t, takeByte b s = .next t → P s t) (bs : List Byte) (s t : State) (h : feed bs s = .next t) : P s t := by
  induction bs generalizing s with
  | nil =>
    cases h
    exact refl _
  | cons b bs ih =>
    rw [feed_cons, andThen_eq_next] at h
    obtain ⟨u, h1, h2⟩ := h
    exact trans s u t (byte b s u h1) (ih u h2)

/-- The mode, the configurations and the input queue, which only `RST` and the step itself change. -/
def KeepsControl (s t : State) : Prop := t.mode = s.mode ∧ t.cfg = s.cfg ∧ t.cfgIn = s.cfgIn ∧ t.inq = s.inq

theorem KeepsControl.refl (s : State) : KeepsControl s s := ⟨rfl, rfl, rfl, rfl⟩

theorem KeepsControl.trans (r s t : State) (h1 : KeepsControl r s) (h2 : KeepsControl s t) : KeepsControl r t :=
  ⟨h2.1.trans h1.1, h2.2.1.trans h1.2.1, h2.2.2.1.trans h1.2.2.1, h2.2.2.2.trans h1.2.2.2⟩

theorem dispatch_keepsControl {c i : Byte} {n : Half} {p : List Byte} {s t : State} (h : dispatch c i n p s = .next t) :
    KeepsControl s t := by
  rcases dispatch_cases h with ⟨_, rfl⟩ | ⟨_, _, _, _, _, -, -, -, -, rfl⟩ | ⟨_, _, _, _, _, -, -, -, -, rfl⟩ <;>
    exact ⟨rfl, rfl, rfl, rfl⟩

theorem takeByte_keepsControl {b : Byte} {s t : State} (h : takeByte b s = .next t) : KeepsControl s t := by
  unfold takeByte at h
  split at h
  · unfold scanByte at h
    split at h
    case h_2 =>
      cases h
      rcases scanSync1_cases b s with ⟨_, e⟩ | ⟨_, _, e⟩ | ⟨_, _, e⟩ <;> rw [e] <;> exact ⟨rfl, rfl, rfl, rfl⟩
    case h_7 =>
      rcases scanPayload_cases b s with ⟨_, e⟩ | ⟨_, e⟩ <;> rw [e] at h <;> cases h
      exact ⟨rfl, rfl, rfl, rfl⟩
    case h_9 =>
      unfold scanCk1 at h
      split at h
      · have q := dispatch_keepsControl h
        exact ⟨q.1, q.2.1, q.2.2.1, q.2.2.2⟩
      · cases h
        exact ⟨rfl, rfl, rfl, rfl⟩
    all_goals
      cases h
      exact ⟨rfl, rfl, rfl, rfl⟩
  · cases h
    exact KeepsControl.refl s

theorem feed_keepsControl {bs : List Byte} {s t : State} (h : feed bs s = .next t) : KeepsControl s t :=
  feed_induction KeepsControl.refl KeepsControl.trans (fun _ _ _ => takeByte_keepsControl) bs s t h

theorem takeEoc_keepsControl (s : State) : KeepsControl s (takeEoc s) := by
  rcases takeEoc_cases s with ⟨e, _⟩ | ⟨e, _⟩ <;> rw [e] <;> exact ⟨rfl, rfl, rfl, rfl⟩

theorem sendFrame_keepsControl (c i : Byte) (p : List Byte) (s : State) : KeepsControl s (sendFrame c i p s) := by
  rcases sendFrame_cases c i p s with ⟨e, _⟩ | ⟨e, _⟩ <;> rw [e] <;> exact ⟨rfl, rfl, rfl, rfl⟩

/-- A `PAYLOAD` byte below `LEN`, at an address `PBUF` has, is written, counted, and ends the payload exactly when it is the
last. -/
theorem scanPayload_next {b : Byte} {s : State} (hm : s.cnt.toNat < s.cfg.pmax) (h : s.cnt.toNat < s.len.toNat) :
    ∃ t, scanPayload b s = .next t ∧ t.pbuf = pbufWrite s.pbuf s.cnt.toNat b ∧ t.cnt.toNat = s.cnt.toNat + 1 ∧
      t.phase = if s.cnt.toNat + 1 = s.len.toNat then .ck0 else .payload := by
  have hl := s.len.isLt
  rcases scanPayload_cases b s with ⟨_, e⟩ | ⟨hc, _⟩
  · refine ⟨_, e, rfl, ?_, by simp [lastByte]⟩
    have e : (s.cnt + 1).toNat = (s.cnt.toNat + 1) % 2 ^ 16 := BitVec.toNat_add s.cnt 1
    exact e.trans (Nat.mod_eq_of_lt (by omega))
  · omega

end Sys2Proof.Machine
end

