-- ==== Sys2Proof/Tests/Slice0.lean ====
section
/-! SUPPORT. Own tests: the WellFormed smoke, words written out from the spec, vectors of 95_test_vectors.md, and for every
statement with hypotheses a state and operands that meet them. -/

namespace Sys2Proof.Tests

set_option Elab.async false

open Sys2Proof.Machine

/-! ## Helpers -/

/-- The output events of an answer. -/
def outputs : Res → Option (List OutEvent)
  | .next t => some t.out
  | _ => none

/-- The fields of the last record of an answer, as number and signed value. -/
def lastFields (r : Res) : List (Nat × Int × Bool) :=
  match (outputs r).bind (·.getLast?) with
  | some (.record (.decoded _ _ _ _ _ b _)) => b.fields.map (fun f => (f.reg.val, f.value.toInt, f.present))
  | _ => []

/-- The group rows of the last record of an answer, as signed values. -/
def lastRows (r : Res) : List (List (Option Int)) :=
  match (outputs r).bind (·.getLast?) with
  | some (.record (.decoded _ _ _ _ _ b _)) => b.rows.map (fun row => row.map (·.map (·.toInt)))
  | _ => []

/-- The texts of the last record of an answer. -/
def lastTexts (r : Res) : List (List Byte) :=
  match (outputs r).bind (·.getLast?) with
  | some (.record (.decoded _ _ _ _ _ b _)) => b.texts.map (·.bytes)
  | _ => []

/-- The scanner registers of an answer: phase, class, id, length, count, checksum pair, held byte. -/
def scanner : Res → Option (Phase × Byte × Byte × Half × Half × Byte × Byte × Byte)
  | .next t => some (t.phase, t.cls, t.id, t.len, t.cnt, t.cka, t.ckb, t.rxa)
  | _ => none

/-- A property of the next state. -/
def holds (p : State → Bool) : Res → Bool
  | .next t => p t
  | _ => false

/-- The reset state, its mode written out. -/
def ready : State := { State.reset with mode := .run }

/-- `ready` is the reset state: the default tables are valid. -/
theorem ready_eq_reset : State.reset = ready := by
  have h : State.reset.mode = .run := by decide +kernel
  rw [ready, ← h]

/-- The reset state in another phase. -/
def inPh (p : Phase) : State := { ready with phase := p }

/-- The trace of V2 after `B5 62 05 01 02 00`. -/
def v2Payload : State :=
  { ready with phase := .payload, cls := 0x05, id := 0x01, len := 2, cka := 0x08, ckb := 0x1B }

/-- The trace of V2 after the first payload byte. -/
def v2Last : State := { v2Payload with cnt := 1, cka := 0x0E, ckb := 0x29, pbuf := [(0, 0x06)] }

/-- The trace of V2 after the last payload byte. -/
def v2Ck0 : State := { v2Payload with phase := .ck0, cnt := 2, cka := 0x0F, ckb := 0x38, pbuf := [(0, 0x06), (1, 0x01)] }

/-- The trace of V2 after the first checksum byte. -/
def v2Ck1 : State := { v2Ck0 with phase := .ck1, rxa := 0x0F }

/-- Mode `HALT`. -/
def halted : State := { ready with mode := .halt }

/-- A table with two rows of one identity (V82). -/
def badConfig : Config := { defaultConfig with idt := ⟨0x05, 0x01, [], 6⟩ :: defaultConfig.idt }

/-- The payload of V20. -/
def pvtPayload : List Byte :=
  [0x00, 0xCA, 0x5B, 0x07, 0xEA, 0x07, 0x0B, 0x0A, 0x0C, 0x22, 0x38, 0x07, 0x19, 0x00, 0x00, 0x00, 0x2E, 0xFB, 0xFF, 0xFF,
    0x03, 0x01, 0x00, 0x0C, 0xF9, 0x49, 0x17, 0x05, 0x83, 0x77, 0x37, 0x1C, 0x52, 0xAA, 0x08, 0x00, 0x40, 0xE2, 0x01, 0x00] ++
  [0xDC, 0x05, 0x00, 0x00, 0xC4, 0x09, 0x00, 0x00, 0x88, 0xFF, 0xFF, 0xFF, 0x54, 0x01, 0x00, 0x00, 0xF1, 0xFF, 0xFF, 0xFF,
    0x69, 0x01, 0x00, 0x00, 0x4E, 0x61, 0xBC, 0x00, 0xC2, 0x01, 0x00, 0x00, 0x47, 0x94, 0x03, 0x00, 0x9C, 0x00] ++
  [0x00, 0x00, 0x00, 0x00, 0x00, 0x00, 0xE0, 0x55, 0xBB, 0xFF, 0x85, 0xFF, 0x2D, 0x00]

/-- The payload of V35: one satellite. -/
def svPayload : List Byte :=
  [0xE8, 0x03, 0x00, 0x00, 0x01, 0x00, 0x00, 0x00, 0x01, 0x0D, 0x0D, 0x04, 0x1E, 0xFB, 0x67, 0x01, 0xFA, 0x00, 0x00, 0x00]

/-- The payload of V40. -/
def prtPayload : List Byte :=
  [0x01, 0x00, 0x00, 0x00, 0xD0, 0x08, 0x00, 0x00, 0x80, 0x25, 0x00, 0x00, 0x07, 0x00, 0x03, 0x00, 0x00, 0x00, 0x00, 0x00]

/-- The payload of V50 without its extension string. -/
def verPayload : List Byte :=
  [0x52, 0x4F, 0x4D, 0x20, 0x43, 0x4F, 0x52, 0x45, 0x20, 0x33, 0x2E, 0x30, 0x31, 0x20, 0x28, 0x31, 0x30, 0x37, 0x38, 0x38,
    0x38, 0x29, 0, 0, 0, 0, 0, 0, 0, 0, 0x30, 0x30, 0x30, 0x38, 0x30, 0x30, 0x30, 0x30, 0, 0]

/-! ## WellFormed smoke: each check refuses an ill-formed term -/

theorem payloadFits_replicate (n : Nat) : payloadFits (List.replicate n 0) = decide (n ≤ 65535) := by
  rw [payloadFits, List.length_replicate]

/-- 65536 payload bytes do not fit the length field (30_encoding R93). -/
theorem long_payload : payloadFits (List.replicate 65536 0) = false := (payloadFits_replicate 65536).trans (by decide)

theorem test_wellFormed_refuses_long_navPvt : (Instr.navPvt (List.replicate 65536 0) 0 0).wellFormed = false :=
  long_payload
theorem test_wellFormed_refuses_long_navSvinfo : (Instr.navSvinfo (List.replicate 65536 0) 0 0).wellFormed = false :=
  long_payload
theorem test_wellFormed_refuses_long_cfgPrt : (Instr.cfgPrt (List.replicate 65536 0) 0 0).wellFormed = false :=
  long_payload
theorem test_wellFormed_refuses_long_cfgMsg : (Instr.cfgMsg (List.replicate 65536 0) 0 0).wellFormed = false :=
  long_payload
theorem test_wellFormed_refuses_long_monVer : (Instr.monVer (List.replicate 65536 0) 0 0).wellFormed = false :=
  long_payload
theorem test_wellFormed_refuses_long_ackAck : (Instr.ackAck (List.replicate 65536 0) 0 0).wellFormed = false :=
  long_payload
theorem test_wellFormed_refuses_long_ackNak : (Instr.ackNak (List.replicate 65536 0) 0 0).wellFormed = false :=
  long_payload
theorem test_wellFormed_refuses_long_raw : (Instr.raw 0x21 0x22 (List.replicate 65536 0) 0 0).wellFormed = false := by
  rw [Instr.wellFormed, long_payload]
  rfl

/-- `RAW` never carries an identity that has its own row (30_encoding R107). -/
theorem test_wellFormed_refuses_named_raw :
    (Instr.raw 0x01 0x07 [] 0 0).wellFormed = false ∧ (Instr.raw 0x01 0x30 [] 0 0).wellFormed = false ∧
      (Instr.raw 0x06 0x00 [] 0 0).wellFormed = false ∧ (Instr.raw 0x06 0x01 [] 0 0).wellFormed = false ∧
      (Instr.raw 0x0A 0x04 [] 0 0).wellFormed = false ∧ (Instr.raw 0x05 0x01 [] 0 0).wellFormed = false ∧
      (Instr.raw 0x05 0x00 [] 0 0).wellFormed = false ∧ (Instr.raw 0x07 0x01 [] 0 0).wellFormed = true := by decide

/-! ## Decoding: words written out from the spec -/

/-- V20's identity over an empty payload (V22, second frame). -/
theorem test_decode_navPvt : decode (.bytes [0xB5, 0x62, 0x01, 0x07, 0x00, 0x00, 0x08, 0x19]) = .ok (.navPvt [] 0x08 0x19) := by
  decide
/-- V33, first frame. -/
theorem test_decode_navSvinfo :
    decode (.bytes [0xB5, 0x62, 0x01, 0x30, 0x05, 0x00, 0xE8, 0x03, 0x00, 0x00, 0x00, 0x21, 0x40]) =
      .ok (.navSvinfo [0xE8, 0x03, 0x00, 0x00, 0x00] 0x21 0x40) := by decide
/-- V6. -/
theorem test_decode_cfgPrt : decode (.bytes [0xB5, 0x62, 0x06, 0x00, 0x00, 0x00, 0x06, 0x18]) = .ok (.cfgPrt [] 0x06 0x18) := by
  decide
/-- V44. -/
theorem test_decode_cfgMsg :
    decode (.bytes [0xB5, 0x62, 0x06, 0x01, 0x03, 0x00, 0x01, 0x07, 0x01, 0x13, 0x51]) =
      .ok (.cfgMsg [0x01, 0x07, 0x01] 0x13 0x51) := by decide
/-- The second poll of V70, received. -/
theorem test_decode_monVer : decode (.bytes [0xB5, 0x62, 0x0A, 0x04, 0x00, 0x00, 0x0E, 0x34]) = .ok (.monVer [] 0x0E 0x34) := by
  decide
/-- V60. -/
theorem test_decode_ackAck :
    decode (.bytes [0xB5, 0x62, 0x05, 0x01, 0x02, 0x00, 0x06, 0x01, 0x0F, 0x38]) = .ok (.ackAck [0x06, 0x01] 0x0F 0x38) := by
  decide
/-- V61. -/
theorem test_decode_ackNak :
    decode (.bytes [0xB5, 0x62, 0x05, 0x00, 0x02, 0x00, 0x06, 0x00, 0x0D, 0x32]) = .ok (.ackNak [0x06, 0x00] 0x0D 0x32) := by
  decide
/-- V1 and V17: an identity of no row, one of them a listed class with another id. -/
theorem test_decode_raw :
    decode (.bytes [0xB5, 0x62, 0x21, 0x22, 0x00, 0x00, 0x43, 0xEA]) = .ok (.raw 0x21 0x22 [] 0x43 0xEA) ∧
      decode (.bytes [0xB5, 0x62, 0x01, 0x08, 0x02, 0x00, 0x01, 0x02, 0x0E, 0x3A]) =
        .ok (.raw 0x01 0x08 [0x01, 0x02] 0x0E 0x3A) := by decide
/-- Runs that are no whole frame are refused by name. -/
theorem test_decode_refuses :
    decode (.bytes [0xB5, 0x62, 0x21]) = .error .tooShort ∧
      decode (.bytes [0x62, 0xB5, 0x21, 0x22, 0x00, 0x00, 0x43, 0xEA]) = .error .noPreamble ∧
      decode (.bytes [0xB5, 0x62, 0x21, 0x22, 0x00, 0x00, 0x43]) = .error .wrongLength ∧
      decode (.bytes [0xB5, 0x62, 0x21, 0x22, 0x00, 0x00, 0x43, 0xEA, 0x00]) = .error .wrongLength := by decide
/-- `rst` wins over every other bit (30_encoding R118). -/
theorem test_decode_rst : decode (.rx 0b10000000000#11) = .ok .rst ∧ decode (.rx 0b11110110101#11) = .ok .rst := by decide
/-- `001` and the byte 0xB5. Its nine phase rows have this word. -/
theorem test_decode_byte : decode (.rx 0b00110110101#11) = .ok (.byte 0xB5) := by decide
/-- `in_data` is ignored. -/
theorem test_decode_eoc : decode (.rx 0b01000000000#11) = .ok .eoc ∧ decode (.rx 0b01011111111#11) = .ok .eoc := by decide
/-- V83's word. -/
theorem test_decode_byteEoc : decode (.rx 0b01100111000#11) = .ok (.byteEoc 0x38) := by decide
theorem test_decode_nop : decode (.rx 0b00000000000#11) = .ok .nop ∧ decode (.rx 0b00011111111#11) = .ok .nop := by decide
/-- `1 0 cccccccc iiiiiiii`, the rates ignored. -/
theorem test_decode_poll : decode (.tx (0b10#2 ++ 0x0A#8 ++ 0x04#8 ++ 0x060504030201#48)) = .ok (.poll 0x0A 0x04) := by
  decide
/-- The rates of V71's second request: `r[0]` lies lowest. -/
theorem test_decode_cfgmsg :
    decode (.tx (0b11#2 ++ 0x01#8 ++ 0x30#8 ++ 0x060504030201#48)) = .ok (.cfgmsg 0x01 0x30 1 2 3 4 5 6) := by decide
theorem test_decode_txnop : decode (.tx (0b01#2 ++ 0x01#8 ++ 0x30#8 ++ 0x060504030201#48)) = .ok .txnop := by decide
/-- Every encoder output that a spec example writes out: V70, V60, V71. -/
theorem test_encode :
    encode (.ackAck [0x06, 0x01] 0x0F 0x38) = .bytes [0xB5, 0x62, 0x05, 0x01, 0x02, 0x00, 0x06, 0x01, 0x0F, 0x38] ∧
      encode (.bytePayload 0xB5) = .rx 0b00110110101#11 ∧ encode (.byteEoc 0x38) = .rx 0b01100111000#11 ∧
      encode (.cfgmsg 0x01 0x30 1 2 3 4 5 6) = .tx (0b11#2 ++ 0x01#8 ++ 0x30#8 ++ 0x060504030201#48) := by decide
/-- A row's word is the next instruction a step runs. -/
theorem test_withFetchWord : step (State.reset.withFetchWord 16 0b00110110101) = exec (.byte 0xB5) State.reset := by rfl

/-! ## One step on a small state -/

/-- V20: signs, scales and the optional tail. -/
theorem test_navPvt :
    lastFields (exec (.navPvt pvtPayload 0x4D 0xE1) ready) =
      [(0, 123456000, true), (1, 2026, true), (2, 11, true), (3, 10, true), (4, 12, true), (5, 34, true), (6, 56, true),
        (7, 7, true), (8, 25, true), (9, -1234, true), (10, 3, true), (11, 1, true), (12, 0, true), (13, 12, true),
        (14, 85412345, true), (15, 473397123, true), (16, 567890, true), (17, 123456, true), (18, 1500, true),
        (19, 2500, true), (20, -120, true), (21, 340, true), (22, -15, true), (23, 361, true), (24, 12345678, true),
        (25, 450, true), (26, 234567, true), (27, 156, true), (28, -4500000, true), (29, -123, true), (30, 45, true)] := by
  decide +kernel

/-- V21, LEN 86: `headVeh` is cut and absent. -/
theorem test_navPvt_short :
    (lastFields (exec (.navPvt (pvtPayload.take 86) 0xDC 0xBD) ready)).drop 27 =
      [(27, 156, true), (28, 0, false), (29, 0, false), (30, 0, false)] := by
  decide +kernel

/-- V35. -/
theorem test_navSvinfo :
    lastRows (exec (.navSvinfo svPayload 0xCB 0xEE) ready) = [[some 13, some (-5), some 359, some 30]] := by
  decide +kernel

/-- V34: the header fields fit, the header does not. -/
theorem test_navSvinfo_mismatch :
    outputs (exec (.navSvinfo [0xE8, 0x03, 0x00, 0x00, 0x00, 0x00] 0x22 0x69) ready) =
      some [.rawframe [0xB5, 0x62, 0x01, 0x30, 0x06, 0x00, 0xE8, 0x03, 0x00, 0x00, 0x00, 0x00, 0x22, 0x69],
        .err (.groupSizeMismatch 0x01 0x30 6)] := by
  decide +kernel

/-- V40. -/
theorem test_cfgPrt :
    lastFields (exec (.cfgPrt prtPayload 0xA2 0xB5) ready) =
      [(0, 1, true), (1, 0, true), (2, 0x8D0, true), (3, 9600, true), (4, 7, true), (5, 3, true), (6, 0, true)] := by
  decide +kernel

/-- V80: the checksum is checked first. -/
theorem test_cfgPrt_bad_checksum :
    outputs (exec (.cfgPrt [] 0x06 0x19) ready) = some [.err (.checksumError 0x06 0x00 0 0x06 0x19 0x06 0x18)] := by
  decide +kernel

/-- V43. -/
theorem test_cfgMsg :
    lastFields (exec (.cfgMsg [0x01, 0x07, 0x00, 0x01, 0x00, 0x00, 0x00, 0x00] 0x18 0xE1) ready) =
      [(0, 1, true), (1, 7, true), (2, 0, true), (3, 1, true), (4, 0, true), (5, 0, true), (6, 0, true), (7, 0, true)] := by
  decide +kernel

/-- V44. -/
theorem test_cfgMsg_short :
    outputs (exec (.cfgMsg [0x01, 0x07, 0x01] 0x13 0x51) ready) =
      some [.rawframe [0xB5, 0x62, 0x06, 0x01, 0x03, 0x00, 0x01, 0x07, 0x01, 0x13, 0x51],
        .err (.truncatedPayload 0x06 0x01 3)] := by
  decide +kernel

/-- V50 with LEN 40: 22 and 8 characters. -/
theorem test_monVer :
    lastTexts (exec (.monVer verPayload 0x88 0xAF) ready) =
      [verPayload.take 22, [0x30, 0x30, 0x30, 0x38, 0x30, 0x30, 0x30, 0x30]] := by
  decide +kernel

/-- V51: an interior zero byte stays. -/
theorem test_monVer_interior_zero :
    lastTexts (exec (.monVer ([0x41, 0x42, 0x00, 0x43, 0x44] ++ List.replicate 35 0) 0x40 0x69) ready) =
      [[0x41, 0x42, 0x00, 0x43, 0x44], []] := by
  decide +kernel

/-- V60. -/
theorem test_ackAck :
    outputs (exec (.ackAck [0x06, 0x01] 0x0F 0x38) ready) =
      some [.rawframe [0xB5, 0x62, 0x05, 0x01, 0x02, 0x00, 0x06, 0x01, 0x0F, 0x38],
        .record (.decoded .acknowledgeAck 0x05 0x01 2 5 ⟨[⟨0, 6, true⟩, ⟨1, 1, true⟩], [], []⟩ (some (.found 3)))] := by
  decide +kernel

/-- V62: the acknowledged identity has no row. -/
theorem test_ackAck_unknown :
    outputs (exec (.ackAck [0xF0, 0x00] 0xF8 0x0B) ready) =
      some [.rawframe [0xB5, 0x62, 0x05, 0x01, 0x02, 0x00, 0xF0, 0x00, 0xF8, 0x0B],
        .record (.decoded .acknowledgeAck 0x05 0x01 2 5 ⟨[⟨0, 240, true⟩, ⟨1, 0, true⟩], [], []⟩ (some .notFound))] := by
  decide +kernel

/-- V64. -/
theorem test_ackNak :
    outputs (exec (.ackNak [0x05, 0x00] 0x0C 0x30) ready) =
      some [.rawframe [0xB5, 0x62, 0x05, 0x00, 0x02, 0x00, 0x05, 0x00, 0x0C, 0x30],
        .record (.decoded .acknowledgeNak 0x05 0x00 2 6 ⟨[⟨0, 5, true⟩, ⟨1, 0, true⟩], [], []⟩ (some (.found 6)))] := by
  decide +kernel

/-- V8: preamble bytes inside a frame are data. -/
theorem test_raw :
    outputs (exec (.raw 0xB5 0x62 [0xB5, 0x62, 0xB5, 0x62] 0x49 0x34) ready) =
      some [.rawframe [0xB5, 0x62, 0xB5, 0x62, 0x04, 0x00, 0xB5, 0x62, 0xB5, 0x62, 0x49, 0x34],
        .record (.raw 0xB5 0x62 4 none [0xB5, 0x62, 0xB5, 0x62])] := by
  decide +kernel

/-- V14: the order of the bytes matters. -/
theorem test_raw_swapped_bytes :
    outputs (exec (.raw 0x0D 0x03 [0x02, 0x01, 0x03] 0x19 0x86) ready) =
      some [.err (.checksumError 0x0D 0x03 3 0x19 0x86 0x19 0x87)] := by
  decide +kernel

/-- V81: `RST` in the middle of a frame. -/
theorem test_rst :
    scanner (exec .rst v2Last) = some (.hunt, 0, 0, 0, 0, 0, 0, 0) ∧ outputs (exec .rst v2Last) = some [] := by
  decide +kernel

/-- V82: two rows of one identity. -/
theorem test_rst_bad_tables :
    holds (fun t => t.mode == .halt && t.out == [.err .configFault] && t.err.code == 5)
      (exec .rst { ready with cfgIn := badConfig }) = true := by
  decide +kernel

/-- V2, the first byte, and V4, the byte after a broken preamble. -/
theorem test_byte : scanner (exec (.byte 0xB5) ready) = some (.sync1, 0, 0, 0, 0, 0, 0, 0) ∧
    scanner (exec (.byte 0x00) (inPh .sync1)) = some (.hunt, 0, 0, 0, 0, 0, 0, 0) := by decide +kernel
/-- A byte that is not the preamble is dropped in `HUNT`. -/
theorem test_byteHunt : exec (.byteHunt 0x62) ready = .next ready := by rfl
/-- V3: a doubled first preamble byte, then the second one. -/
theorem test_byteSync1 : scanner (exec (.byteSync1 0xB5) (inPh .sync1)) = some (.sync1, 0, 0, 0, 0, 0, 0, 0) ∧
    scanner (exec (.byteSync1 0x62) { v2Ck1 with phase := .sync1 }) = some (.cls, 5, 1, 2, 2, 0, 0, 0x0F) := by decide +kernel
/-- V2. -/
theorem test_byteCls : scanner (exec (.byteCls 0x05) (inPh .cls)) = some (.id, 5, 0, 0, 0, 0x05, 0x05, 0) := by decide +kernel
/-- V2. -/
theorem test_byteId :
    scanner (exec (.byteId 0x01) { inPh .id with cls := 5, cka := 5, ckb := 5 }) = some (.len0, 5, 1, 0, 0, 0x06, 0x0B, 0) := by
  decide +kernel
/-- V2, over an old length whose high byte stays. -/
theorem test_byteLen0 :
    scanner (exec (.byteLen0 0x02) { inPh .len0 with cls := 5, id := 1, len := 0xABCD, cka := 6, ckb := 0x0B }) =
      some (.len1, 5, 1, 0xAB02, 0, 0x08, 0x13, 0) := by decide +kernel
/-- V2, and a length of zero (V1) that skips `PAYLOAD`. -/
theorem test_byteLen1 :
    scanner (exec (.byteLen1 0x00) { inPh .len1 with cls := 5, id := 1, len := 0xAB02, cka := 8, ckb := 0x13 }) =
      some (.payload, 5, 1, 2, 0, 0x08, 0x1B, 0) ∧
    scanner (exec (.byteLen1 0x00) { inPh .len1 with len := 0xAB00, cnt := 7 }) = some (.ck0, 0, 0, 0, 0, 0, 0, 0) := by
  decide +kernel
/-- V2: the first payload byte. -/
theorem test_bytePayload : exec (.bytePayload 0x06) v2Payload = .next v2Last := by rfl
/-- V2: the last payload byte. -/
theorem test_bytePayload_last : exec (.bytePayload 0x01) v2Last = .next v2Ck0 := by rfl
/-- V2. -/
theorem test_byteCk0 : exec (.byteCk0 0x0F) v2Ck0 = .next v2Ck1 := by rfl
/-- V2: the record of V60. -/
theorem test_byteCk1 :
    outputs (exec (.byteCk1 0x38) v2Ck1) = outputs (exec (.ackAck [0x06, 0x01] 0x0F 0x38) ready) := by decide +kernel
/-- A wrong second checksum byte. -/
theorem test_byteCk1_bad :
    outputs (exec (.byteCk1 0x39) v2Ck1) = some [.err (.checksumError 0x05 0x01 2 0x0F 0x39 0x0F 0x38)] := by decide +kernel
/-- V5: `EOC` in phase `PAYLOAD` changes no scanner register; in `HUNT` it gives nothing. -/
theorem test_eoc :
    outputs (exec .eoc v2Last) = some [.err .incompleteFrame] ∧ scanner (exec .eoc v2Last) = scanner (.next v2Last) ∧
      outputs (exec .eoc ready) = some [] := by decide +kernel
/-- V83: the byte completes the frame before the end of the chunk is seen; one byte earlier it does not. -/
theorem test_byteEoc :
    outputs (exec (.byteEoc 0x38) v2Ck1) = outputs (exec (.byteCk1 0x38) v2Ck1) ∧
      outputs (exec (.byteEoc 0x0F) v2Ck0) = some [.err .incompleteFrame] := by decide +kernel
theorem test_nop : exec .nop v2Last = .next v2Last := by rfl
/-- V70, and V73. -/
theorem test_poll :
    outputs (exec (.poll 0x0A 0x04) v2Last) = some [.txframe [0xB5, 0x62, 0x0A, 0x04, 0x00, 0x00, 0x0E, 0x34]] ∧
      outputs (exec (.poll 0xFF 0xFF) ready) = some [.txframe [0xB5, 0x62, 0xFF, 0xFF, 0x00, 0x00, 0xFE, 0xF9]] ∧
      outputs (exec (.poll 0x06 0x00) halted) = some [] := by decide +kernel
/-- V71. -/
theorem test_cfgmsg :
    outputs (exec (.cfgmsg 0x01 0x30 1 2 3 4 5 6) ready) =
      some [.txframe [0xB5, 0x62, 0x06, 0x01, 0x08, 0x00, 0x01, 0x30, 0x01, 0x02, 0x03, 0x04, 0x05, 0x06, 0x55, 0x33]] := by
  decide +kernel
/-- `r[0]` to `r[NPORTS-1]` only, when NPORTS is 2 (log 15). -/
theorem test_cfgmsg_two_ports :
    outputs (exec (.cfgmsg 0x01 0x30 1 2 3 4 5 6) { ready with cfg := { defaultConfig with nports := 2 } }) =
      some [.txframe [0xB5, 0x62, 0x06, 0x01, 0x04, 0x00, 0x01, 0x30, 0x01, 0x02, 0x3F, 0xE7]] := by
  decide +kernel
theorem test_txnop : exec .txnop v2Last = .next v2Last := by rfl
/-- V12: the sums wrap. -/
theorem test_checksum_wraps : cksum 256 [0xFF, 0xFF, 0xFF, 0xFF] = (0xFC, 0xF6) ∧ cksum 256 (List.replicate 300 0xFF) = (0xD4, 0xA2) := by
  decide +kernel
/-- V18. -/
theorem test_resolve :
    resolveMessageName defaultConfig 0x06 0x01 = (true, [0x43, 0x46, 0x47, 0x2D, 0x4D, 0x53, 0x47]) ∧
      resolveMessageName defaultConfig 0xF0 0x00 = (false, []) ∧ lookup defaultConfig 0x07 0x01 = none := by decide +kernel

/-- R176 items 3 and 4: a text descriptor's scale and length are bounded by KMAX and TMAX. -/
theorem test_text_validity :
    fieldValid defaultConfig (.text 0 0 30 9 .none false 0) = true ∧
      fieldValid defaultConfig (.text 0 0 30 10 .none false 0) = false ∧
      fieldValid defaultConfig (.text 0 0 31 0 .none false 0) = false ∧
      fieldValid { defaultConfig with tmax := 31 } (.text 0 0 31 0 .none false 0) = true := by
  decide +kernel

/-- A table whose columns carry a scale: R196's elevation read with `k = 2`. -/
def scaledColumnConfig : Config :=
  { defaultConfig with
    layouts := defaultLayouts.set 1 ⟨2, ⟨satelliteInfoFields, some ⟨1, 8, 12, [⟨0, 1, .u1, 0, .none⟩, ⟨1, 5, .i1, 2, .degree⟩]⟩⟩⟩ }

/-- R213's alternative configuration is valid. -/
theorem test_navSat : tablesValid navSatConfig = true ∧ (lookup navSatConfig 0x01 0x35).map (·.1) = some 1 := by
  decide +kernel

/-! ## Witnesses: a state and operands that meet the hypotheses of each statement -/

/-- The trace of V2, phase by phase; every `PHASE` of it satisfies the invariant. -/
def v2At : Phase → State
  | .hunt => ready
  | .sync1 => inPh .sync1
  | .cls => inPh .cls
  | .id => { inPh .id with cls := 0x05, cka := 0x05, ckb := 0x05 }
  | .len0 => { inPh .len0 with cls := 0x05, id := 0x01, cka := 0x06, ckb := 0x0B }
  | .len1 => { inPh .len1 with cls := 0x05, id := 0x01, len := 2, cka := 0x08, ckb := 0x13 }
  | .payload => v2Last
  | .ck0 => v2Ck0
  | .ck1 => v2Ck1

theorem reset_mode : ready.mode = .run := rfl
theorem reset_tables : tablesValid defaultConfig = true := by decide +kernel

theorem v2At_run (p : Phase) : (v2At p).mode = .run ∧ (v2At p).phase = p := by cases p <;> exact ⟨reset_mode, rfl⟩

/-- `PBUF` has room for every length under the default configuration. -/
theorem reset_fits : BufferFits ready := by decide

theorem v2At_inv (p : Phase) : BlockInv (v2At p) := by
  cases p
  · exact ⟨rfl, fun _ => reset_tables, reset_fits, trivial⟩
  · exact ⟨rfl, fun _ => reset_tables, reset_fits, trivial⟩
  · exact ⟨rfl, fun _ => reset_tables, reset_fits, rfl⟩
  · exact ⟨rfl, fun _ => reset_tables, reset_fits, by show (_, _) = _; decide +kernel⟩
  · exact ⟨rfl, fun _ => reset_tables, reset_fits, by show (_, _) = _; decide +kernel⟩
  · exact ⟨rfl, fun _ => reset_tables, reset_fits, by show (_, _) = _; decide +kernel⟩
  · exact ⟨rfl, fun _ => reset_tables, reset_fits, by show _ < _ ∧ (_, _) = _; decide +kernel⟩
  · exact ⟨rfl, fun _ => reset_tables, reset_fits, by show _ = _ ∧ (_, _) = _; decide +kernel⟩
  · exact ⟨rfl, fun _ => reset_tables, reset_fits, by show _ = _ ∧ (_, _) = _; decide +kernel⟩

theorem reset_hunting : Hunting ready := ⟨reset_mode, rfl, rfl, rfl⟩

/-- The first checksum byte of a frame. -/
def sumA (c i : Byte) (p : List Byte) : Byte := (cksum 256 (frameBody c i (BitVec.ofNat 16 p.length) p)).1

/-- The second checksum byte of a frame. -/
def sumB (c i : Byte) (p : List Byte) : Byte := (cksum 256 (frameBody c i (BitVec.ofNat 16 p.length) p)).2

theorem sums_good (c i : Byte) (p : List Byte) : GoodChecksum c i p (sumA c i p) (sumB c i p) := rfl

/-- Each clause of StepRunsTheDecodedInstruction: a word, a run that is no frame, an empty queue. -/
theorem test_witness_StepRunsTheDecodedInstruction :
    (State.reset.withFetchWord 16 0b01100111000).inq = [.rx 0b01100111000#11] ∧
      decode (.rx 0b01100111000#11) = .ok (.byteEoc 0x38) ∧
      decode (.bytes [0xB5, 0x62, 0x21, 0x22, 0x00, 0x00, 0x43]) = .error .wrongLength ∧ ready.inq = [] := by
  decide +kernel

/-- EncodedInstructionsDecode, with the longest payload a length field admits. -/
theorem test_witness_EncodedInstructionsDecode : (Instr.raw 0x05 0x02 (List.replicate 65535 0) 1 2).wellFormed = true := by
  rw [Instr.wellFormed, payloadFits_replicate]
  decide

/-- DecodedFramesEncodeBack, with the shortest frame. -/
theorem test_witness_DecodedFramesEncodeBack :
    decode (.bytes [0xB5, 0x62, 0x21, 0x22, 0x00, 0x00, 0x43, 0xEA]) = .ok (.raw 0x21 0x22 [] 0x43 0xEA) := by decide

theorem test_witness_HaltConsumesEveryOtherEvent : Instr.byteEoc 0xB5 ≠ .rst ∧ halted.mode = .halt := by decide +kernel

/-- OnlyRstWritesModeAndConfiguration: RST with valid and with invalid tables, and another instruction. -/
theorem test_witness_OnlyRstWritesModeAndConfiguration :
    Answers (exec .rst v2Last) ∧ Answers (exec .rst { ready with cfgIn := badConfig }) ∧
      Instr.bytePayload 0x01 ≠ .rst ∧ exec (.bytePayload 0x01) v2Last = .next v2Ck0 := by
  refine ⟨?_, ?_, by decide, rfl⟩ <;> (rw [Answers, exec, execRst]; split <;> exact ⟨_, rfl⟩)

/-- ByteHunt… to ByteCk0…: mode RUN and the phase. -/
theorem test_witness_ByteHuntLooksForThePreamble : ready.mode = .run ∧ ready.phase = .hunt := v2At_run .hunt
theorem test_witness_ByteSync1CompletesThePreamble : (inPh .sync1).mode = .run ∧ (inPh .sync1).phase = .sync1 :=
  v2At_run .sync1
theorem test_witness_ByteClsTakesTheClass : (v2At .cls).mode = .run ∧ (v2At .cls).phase = .cls := v2At_run .cls
theorem test_witness_ByteIdTakesTheId : (v2At .id).mode = .run ∧ (v2At .id).phase = .id := v2At_run .id
theorem test_witness_ByteLen0TakesTheLowLengthByte : (v2At .len0).mode = .run ∧ (v2At .len0).phase = .len0 := v2At_run .len0
theorem test_witness_ByteLen1TakesTheHighLengthByte : (v2At .len1).mode = .run ∧ (v2At .len1).phase = .len1 := v2At_run .len1
theorem test_witness_ByteCk0HoldsTheFirstChecksumByte : v2Ck0.mode = .run ∧ v2Ck0.phase = .ck0 := v2At_run .ck0

/-- BytePayloadStoresOneByte, before the last payload byte, at it, and at the last address of the buffer. -/
theorem test_witness_BytePayloadStoresOneByte :
    (v2Payload.mode = .run ∧ v2Payload.phase = .payload ∧ MemoryOk v2Payload ∧
        v2Payload.cnt.toNat < v2Payload.cfg.pmax ∧ v2Payload.cnt.toNat < v2Payload.len.toNat) ∧
      (v2Last.mode = .run ∧ v2Last.phase = .payload ∧ MemoryOk v2Last ∧ v2Last.cnt.toNat < v2Last.cfg.pmax ∧
        v2Last.cnt.toNat < v2Last.len.toNat) ∧
      let s := { v2Payload with cnt := 65534, len := 65535 }
      s.mode = .run ∧ s.phase = .payload ∧ MemoryOk s ∧ s.cnt.toNat < s.cfg.pmax ∧ s.cnt.toNat < s.len.toNat := by
  decide +kernel

/-- ByteCk1ReportsABadChecksum: the first byte differs, and the second one. -/
theorem test_witness_ByteCk1ReportsABadChecksum :
    let s := { v2Ck1 with rxa := 0x10 }
    (s.mode = .run ∧ s.phase = .ck1 ∧ ¬ (s.rxa = s.cka ∧ (0x38 : Byte) = s.ckb)) ∧
      v2Ck1.mode = .run ∧ v2Ck1.phase = .ck1 ∧ ¬ (v2Ck1.rxa = v2Ck1.cka ∧ (0x39 : Byte) = v2Ck1.ckb) := by
  decide +kernel

theorem test_witness_ByteCk1DeliversAValidFrame :
    BlockInv v2Ck1 ∧ v2Ck1.mode = .run ∧ v2Ck1.phase = .ck1 ∧ v2Ck1.rxa = v2Ck1.cka ∧ 0x38 = v2Ck1.ckb :=
  ⟨v2At_inv .ck1, (v2At_run .ck1).1, rfl, rfl, rfl⟩

/-- ByteFollowsThePhaseTable: every row of the table. -/
theorem test_witness_ByteFollowsThePhaseTable (p : Phase) : BlockInv (v2At p) ∧ (v2At p).mode = .run ∧ (v2At p).phase = p :=
  ⟨v2At_inv p, v2At_run p⟩

/-- EocReportsAnUnfinishedFrame: in a frame and in `HUNT`. -/
theorem test_witness_EocReportsAnUnfinishedFrame :
    v2Ck1.mode = .run ∧ v2Ck1.phase ≠ .hunt ∧ ready.mode = .run ∧ ready.phase = .hunt := by decide +kernel

/-- ByteEocIsByteThenEoc, its last clause too. -/
theorem test_witness_ByteEocIsByteThenEoc : BlockInv v2Ck0 ∧ v2Ck0.mode = .run ∧ v2Ck0.phase = .ck0 :=
  ⟨v2At_inv .ck0, v2At_run .ck0⟩

/-- PollSendsAnEmptyFrame, in both modes. -/
theorem test_witness_PollSendsAnEmptyFrame :
    v2Last.cfg.ckMod = 256 ∧ v2Last.mode = .run ∧ halted.cfg.ckMod = 256 ∧ halted.mode = .halt := by decide +kernel

/-- CfgmsgSendsTheRates, in both modes. -/
theorem test_witness_CfgmsgSendsTheRates :
    v2Last.cfg.nports = 6 ∧ v2Last.mode = .run ∧ halted.cfg.nports = 6 ∧ halted.mode = .halt := by decide +kernel

theorem test_witness_TxAndRxCommute :
    IsTx (.poll 0x0A 0x04) ∧ Instr.bytePayload 0x01 ≠ .rst ∧ Answers (exec (.poll 0x0A 0x04) v2Last) ∧
      exec (.bytePayload 0x01) v2Last = .next v2Ck0 :=
  ⟨trivial, by decide, ⟨_, rfl⟩, rfl⟩

/-- ChecksumCatchesSingleByteErrors, with V13's frame, its changed byte and a changed pair. -/
theorem test_witness_ChecksumCatchesSingleByteErrors :
    Hunting ready ∧ [(0x00 : Byte), 0x02, 0x03].length ≤ 65535 ∧
      GoodChecksum 0x0D 0x03 [0x00, 0x02, 0x03] 0x18 0x83 ∧ 0 < [(0x00 : Byte), 0x02, 0x03].length ∧
      [(0x00 : Byte), 0x02, 0x03][0]? ≠ some 0xFF ∧ ((0x18, 0x84) : Byte × Byte) ≠ (0x18, 0x83) :=
  ⟨reset_hunting, by decide, by decide +kernel, by decide, by decide, by decide⟩

/-- FrameReceptionIsCheckThenDispatch, from reset with an empty and with the longest payload. -/
theorem test_witness_FrameReceptionIsCheckThenDispatch :
    ready.mode = .run ∧ ready.phase = .hunt ∧ MemoryOk ready ∧ ([] : List Byte).length ≤ 65535 ∧
      (List.replicate 65535 (0 : Byte)).length ≤ 65535 ∧ (List.replicate 65535 (0 : Byte)).length ≤ ready.cfg.pmax := by
  refine ⟨reset_mode, rfl, rfl, by decide, ?_, ?_⟩ <;> rw [List.length_replicate]
  exact reset_fits.1

/-- NavPvtDeliversPositionFix, at the lengths where its optional fields begin to be present. -/
theorem test_witness_NavPvtDeliversPositionFix :
    ∀ n ∈ [78, 87, 88, 89, 90, 91, 92], Hunting ready ∧ 78 ≤ (pvtPayload.take n).length ∧
      (pvtPayload.take n).length ≤ 65535 ∧
      GoodChecksum 0x01 0x07 (pvtPayload.take n) (sumA 0x01 0x07 (pvtPayload.take n)) (sumB 0x01 0x07 (pvtPayload.take n)) := by
  intro n h
  refine ⟨reset_hunting, ?_, ?_, sums_good ..⟩ <;> revert n <;> decide +kernel

/-- NavSvinfoDeliversSatellites, with no satellite and with one. -/
theorem test_witness_NavSvinfoDeliversSatellites :
    Hunting ready ∧
      (let p : List Byte := [0xE8, 0x03, 0x00, 0x00, 0x00, 0x00, 0x00, 0x00]
       p.length = 8 + 12 * memRead p 4 1 ∧ p.length ≤ 65535 ∧ GoodChecksum 0x01 0x30 p 0x24 0xC1) ∧
      svPayload.length = 8 + 12 * memRead svPayload 4 1 ∧ svPayload.length ≤ 65535 ∧
      GoodChecksum 0x01 0x30 svPayload 0xCB 0xEE :=
  ⟨reset_hunting, by decide +kernel⟩

/-- CfgPrtDeliversPortConfig, with V40's shortest form. -/
theorem test_witness_CfgPrtDeliversPortConfig :
    Hunting ready ∧ 18 ≤ (prtPayload.take 18).length ∧ (prtPayload.take 18).length ≤ 65535 ∧
      GoodChecksum 0x06 0x00 (prtPayload.take 18) 0xA0 0x49 :=
  ⟨reset_hunting, by decide +kernel⟩

/-- CfgMsgDeliversMessageRates, with V43. -/
theorem test_witness_CfgMsgDeliversMessageRates :
    let p : List Byte := [0x01, 0x07, 0x00, 0x01, 0x00, 0x00, 0x00, 0x00]
    Hunting ready ∧ 8 ≤ p.length ∧ p.length ≤ 65535 ∧ GoodChecksum 0x06 0x01 p 0x18 0xE1 :=
  ⟨reset_hunting, by decide +kernel⟩

/-- MonVerDeliversVersionTexts, with V50's shortest form. -/
theorem test_witness_MonVerDeliversVersionTexts :
    Hunting ready ∧ 40 ≤ verPayload.length ∧ verPayload.length ≤ 65535 ∧ GoodChecksum 0x0A 0x04 verPayload 0x88 0xAF :=
  ⟨reset_hunting, by decide +kernel⟩

/-- AckAckDeliversAcknowledgement, with V60 (a listed identity) and V62 (none). -/
theorem test_witness_AckAckDeliversAcknowledgement :
    Hunting ready ∧ 2 ≤ [(0x06 : Byte), 0x01].length ∧ [(0x06 : Byte), 0x01].length ≤ 65535 ∧
      GoodChecksum 0x05 0x01 [0x06, 0x01] 0x0F 0x38 ∧ GoodChecksum 0x05 0x01 [0xF0, 0x00] 0xF8 0x0B :=
  ⟨reset_hunting, by decide +kernel⟩

/-- AckNakDeliversRefusal, with V61. -/
theorem test_witness_AckNakDeliversRefusal :
    Hunting ready ∧ 2 ≤ [(0x06 : Byte), 0x00].length ∧ [(0x06 : Byte), 0x00].length ≤ 65535 ∧
      GoodChecksum 0x05 0x00 [0x06, 0x00] 0x0D 0x32 :=
  ⟨reset_hunting, by decide +kernel⟩

/-- RawDeliversThePayloadUnchanged, with V1 and V17. -/
theorem test_witness_RawDeliversThePayloadUnchanged :
    Hunting ready ∧ (namedIdentity 0x21 0x22 = false ∧ ([] : List Byte).length ≤ 65535 ∧
        GoodChecksum 0x21 0x22 [] 0x43 0xEA) ∧
      namedIdentity 0x01 0x08 = false ∧ [(0x01 : Byte), 0x02].length ≤ 65535 ∧ GoodChecksum 0x01 0x08 [0x01, 0x02] 0x0E 0x3A :=
  ⟨reset_hunting, by decide +kernel⟩

/-- The default tables with a named row of tag 0. -/
def namedRawConfig : Config := { defaultConfig with idt := defaultIdt ++ [⟨0x0D, 0x03, [0x41], 0⟩] }

/-- NamedRawRowsKeepTheirName, with V13's frame under a table that names its identity, and a row that keeps its mnemonic. -/
theorem test_witness_NamedRawRowsKeepTheirName :
    let s := { ready with cfg := namedRawConfig }
    s.mode = .run ∧ s.phase = .hunt ∧ s.cfg.preamble0 = 0xB5 ∧ s.cfg.preamble1 = 0x62 ∧ tablesValid s.cfg = true ∧
      MemoryOk s ∧ [(0x00 : Byte), 0x02, 0x03].length ≤ s.cfg.pmax ∧
      s.cfg.idt[7]? = some ⟨0x0D, 0x03, [0x41], 0⟩ ∧
      ((0x18, 0x83) : Byte × Byte) = cksum s.cfg.ckMod (frameBody 0x0D 0x03 3 [0x00, 0x02, 0x03]) := by
  decide +kernel

/-- BadChecksumDiscardsTheFrame, with V80. -/
theorem test_witness_BadChecksumDiscardsTheFrame :
    Hunting ready ∧ ([] : List Byte).length ≤ 65535 ∧ GoodChecksum 0x06 0x00 [] 0x06 0x18 ∧
      ((0x06, 0x19) : Byte × Byte) ≠ (0x06, 0x18) :=
  ⟨reset_hunting, by decide +kernel⟩

/-- ShortFramesAreTruncated, for each identity at one byte less than it needs, and empty. -/
theorem test_witness_ShortFramesAreTruncated :
    ∀ x ∈ [((0x01 : Byte), (0x07 : Byte), 78), (0x01, 0x30, 6), (0x06, 0x00, 18), (0x06, 0x01, 8), (0x0A, 0x04, 40),
      (0x05, 0x01, 2), (0x05, 0x00, 2)],
      Hunting ready ∧ (pvtPayload.take (x.2.2 - 1)).length < x.2.2 ∧ ([] : List Byte).length < x.2.2 ∧
        GoodChecksum x.1 x.2.1 (pvtPayload.take (x.2.2 - 1)) (sumA x.1 x.2.1 (pvtPayload.take (x.2.2 - 1)))
          (sumB x.1 x.2.1 (pvtPayload.take (x.2.2 - 1))) := by
  intro x h
  refine ⟨reset_hunting, ?_, ?_, sums_good ..⟩ <;> revert x <;> decide +kernel

/-- WrongGroupSizeIsReported, with V34: the shortest payload it takes, and one byte more than count 0 needs (V31). -/
theorem test_witness_WrongGroupSizeIsReported :
    Hunting ready ∧
      (let p : List Byte := [0xE8, 0x03, 0x00, 0x00, 0x00, 0x00]
       6 ≤ p.length ∧ p.length ≤ 65535 ∧ p.length ≠ 8 + 12 * memRead p 4 1 ∧ GoodChecksum 0x01 0x30 p 0x22 0x69) ∧
      let p : List Byte := [0xE8, 0x03, 0x00, 0x00, 0x00, 0x00, 0x00, 0x00, 0x00]
      6 ≤ p.length ∧ p.length ≤ 65535 ∧ p.length ≠ 8 + 12 * memRead p 4 1 ∧ GoodChecksum 0x01 0x30 p 0x25 0xF0 :=
  ⟨reset_hunting, by decide +kernel⟩

theorem test_witness_BuiltFramesAreValid :
    ready.mode = .run ∧ ready.phase = .hunt ∧ tablesValid ready.cfg = true ∧ MemoryOk ready ∧
      [(0x06 : Byte), 0x01].length ≤ 65535 ∧ [(0x06 : Byte), 0x01].length ≤ ready.cfg.pmax :=
  ⟨reset_mode, rfl, reset_tables, rfl, by decide, by decide⟩

theorem test_witness_RateFramesRoundTrip : Hunting ready := reset_hunting

/-- An answer that has scanner registers is a next state. -/
theorem answers_of_scanner {r : Res} (h : (scanner r).isSome = true) : Answers r := by
  cases r with
  | next t => exact ⟨t, rfl⟩
  | fault e => exact nomatch h
  | refused e => exact nomatch h

/-- ChunkingDoesNotMatter, with a frame cut in three (V5) that is not yet complete. -/
theorem test_witness_ChunkingDoesNotMatter :
    Answers (feed ([[0xB5], [0x62, 0x05], [], [0x01]] : List (List Byte)).flatten ready) :=
  answers_of_scanner (by decide +kernel)

/-- GarbageBeforeAFrameIsHarmless: differing preamble bytes with garbage that ends in the first one, and equal preamble
bytes with garbage that does not. -/
theorem test_witness_GarbageBeforeAFrameIsHarmless :
    (ready.mode = .run ∧ ready.phase = .hunt ∧
        ¬ [ready.cfg.preamble0, ready.cfg.preamble1] <:+: [0x00, 0x62, 0xB5] ∧
        ready.cfg.preamble0 ≠ ready.cfg.preamble1) ∧
      let s := { ready with cfg := { defaultConfig with preamble1 := 0xB5 } }
      s.mode = .run ∧ s.phase = .hunt ∧ ¬ [s.cfg.preamble0, s.cfg.preamble1] <:+: [0xB5, 0x62] ∧
        [(0xB5 : Byte), 0x62].getLast? ≠ some s.cfg.preamble0 := by
  decide +kernel

/-- HuntingForgetsThePast, with two states whose registers, buffers and free values differ. -/
theorem test_witness_HuntingForgetsThePast :
    let s := { v2Ck1 with phase := .hunt, draws := 9, err := ⟨2, 1, 1, 1, 1, 1, 1, 1⟩ }
    BlockInv ready ∧ BlockInv s ∧ ready.phase = .hunt ∧ s.phase = .hunt ∧ ready.mode = s.mode ∧ ready.cfg = s.cfg ∧
      ready.cfgIn = s.cfgIn ∧ ready.out = s.out :=
  ⟨v2At_inv .hunt, ⟨rfl, fun _ => reset_tables, reset_fits, trivial⟩, rfl, rfl, rfl, rfl, rfl, rfl⟩

/-- A table whose acknowledgement layout, valid under R176, names neither `F[0]` nor `F[1]`. -/
def bareAckConfig : Config := { defaultConfig with layouts := defaultLayouts.set 5 ⟨6, ⟨[], none⟩⟩ }

/-- EqualFramesGiveEqualResults: two states whose free values differ, and an acknowledgement whose layout does not name the
registers `Resolve` reads. -/
theorem test_witness_EqualFramesGiveEqualResults :
    tablesValid bareAckConfig = true ∧ (ready.cfg = { v2Ck1 with draws := 9 }.cfg) ∧
      Answers (dispatch 0x05 0x01 2 [0x06, 0x01] { ready with cfg := bareAckConfig }) ∧
      Answers (dispatch 0x21 0x22 0 [] ready) := by
  refine ⟨by decide +kernel, rfl, ?_, ⟨_, rfl⟩⟩
  have h : (scanner (dispatch 0x05 0x01 2 [0x06, 0x01] { ready with cfg := bareAckConfig })).isSome = true := by
    decide +kernel
  exact answers_of_scanner h

/-- EveryStepKeepsTheInvariant: a step that stores a payload byte. -/
theorem test_witness_EveryStepKeepsTheInvariant :
    let s := { v2Last with inq := [.rx 0b00100000001#11] }
    BlockInv s ∧ step s = .next v2Ck0 :=
  ⟨v2At_inv .payload, rfl⟩

/-- EveryStepAnswers, with a byte and with a run of bytes offered. -/
theorem test_witness_EveryStepAnswers :
    BlockInv { v2Last with inq := [.rx 0b00100000001#11] } ∧ BlockInv { v2Last with inq := [.bytes [0x01, 0x0F, 0x38]] } :=
  ⟨v2At_inv .payload, v2At_inv .payload⟩

theorem test_witness_TextLengthsStayRight :
    let s := { v2Last with inq := [.rx 0b00100000001#11] }
    TextOk s ∧ step s = .next v2Ck0 := by
  refine ⟨?_, rfl⟩
  unfold TextOk
  decide +kernel

theorem test_witness_EventsOnlyAppend : exec (.bytePayload 0x01) v2Last = .next v2Ck0 := rfl

theorem test_witness_RecordAndErrorRegistersAreNeverRead : exec (.byteCk0 0x0F) v2Ck0 = .next v2Ck1 := rfl

/-- BufferBeyondLenIsNeverSeen: a buffer that differs at LEN and beyond. -/
theorem test_witness_BufferBeyondLenIsNeverSeen :
    v2Ck1.phase = .ck1 ∧
      (∀ x, x < v2Ck1.len.toNat → pbufRead [(0, 0x06), (1, 0x01), (2, 0x77), (900, 0x12)] x = pbufRead v2Ck1.pbuf x) ∧
      Answers (exec (.byteCk1 0x39) v2Ck1) :=
  ⟨rfl, by decide +kernel, ⟨_, rfl⟩⟩

/-- LookupFindsExactlyTheMatchingRow: the first row, the last row, and no row (V16). -/
theorem test_witness_LookupFindsExactlyTheMatchingRow :
    tablesValid defaultConfig = true ∧ (lookup defaultConfig 0x01 0x07).map (·.1) = some 0 ∧
      (lookup defaultConfig 0x05 0x00).map (·.1) = some 6 ∧ lookup defaultConfig 0x05 0x02 = none := by
  decide +kernel

/-- NumbersAreReadLittleEndian, each width at the end of the payload: the last byte, the last two, the last four. -/
theorem test_witness_NumbersAreReadLittleEndian :
    prtPayload.length = 20 ∧ prtPayload[19]? = some 0x00 ∧ (prtPayload[18]? = some 0x00 ∧ prtPayload[18 + 1]? = some 0x00) ∧
      (prtPayload[16]? = some 0x00 ∧ prtPayload[16 + 1]? = some 0x00 ∧ prtPayload[16 + 2]? = some 0x00 ∧
        prtPayload[16 + 3]? = some 0x00) ∧ memRead prtPayload 8 4 = 9600 := by decide +kernel

/-- FieldsAreExtendedByTheirType: each width in bounds at the payload's end, on both sides of its sign boundary. -/
theorem test_witness_FieldsAreExtendedByTheirType :
    (∀ x : Byte, 0 + 1 ≤ [x].length) ∧ memRead [0x7F] 0 1 = 2 ^ 7 - 1 ∧ memRead [0x80] 0 1 = 2 ^ 7 ∧
      0 + 2 ≤ [(0xFF : Byte), 0x7F].length ∧ memRead [0xFF, 0x7F] 0 2 = 2 ^ 15 - 1 ∧ memRead [0x00, 0x80] 0 2 = 2 ^ 15 ∧
      0 + 4 ≤ [(0xFF : Byte), 0xFF, 0xFF, 0x7F].length ∧ memRead [0xFF, 0xFF, 0xFF, 0x7F] 0 4 = 2 ^ 31 - 1 ∧
      memRead [0x00, 0x00, 0x00, 0x80] 0 4 = 2 ^ 31 := by decide +kernel

/-- ScaledValuesAreExact: the latitude field, and a column with a scale. -/
theorem test_witness_ScaledValuesAreExact :
    (layoutOf defaultConfig 1 = some ⟨positionFixFields, none⟩ ∧
        positionFixFields =
          positionFixFields.take 15 ++ .num 15 28 .i4 7 .degree false 0 :: positionFixFields.drop 16 ∧
        ∀ f ∈ positionFixFields.take 15, fieldDst f ≠ (false, 15)) ∧
      tablesValid scaledColumnConfig = true ∧
      ∃ l g, layoutOf scaledColumnConfig 2 = some l ∧ l.group = some g ∧
        g.cols = [⟨0, 1, .u1, 0, .none⟩] ++ ⟨1, 5, .i1, 2, .degree⟩ :: [] ∧
        ∀ x ∈ [(⟨0, 1, .u1, 0, .none⟩ : Column)], x.col ≠ 1 :=
  ⟨by decide +kernel, by decide +kernel, _, _, rfl, rfl, rfl, by decide⟩

/-- TextLosesItsPadding, its last clause. -/
theorem test_witness_TextLosesItsPadding : ∀ x ∈ verPayload.take 22, x ≠ 0 := by decide +kernel

end Sys2Proof.Tests
end

section
/-! PROOF. What a step does with the input queue (00_scope R7, R8; 60_exceptions R267). -/

namespace Sys2Proof.Machine

variable {s : State} {w : InWord} {rest : List InWord}

theorem step_idle (hq : s.inq = []) : step s = .next s := by
  rw [step, hq]

theorem step_decoded {i : Instr} (hq : s.inq = w :: rest) (hd : decode w = .ok i) :
    step s = exec i { s with inq := rest } := by
  simp only [step, hq, hd]

theorem step_undecoded {e : DecodeError} (hq : s.inq = w :: rest) (hd : decode w = .error e) :
    step s = takeUndecoded w { s with inq := rest } := by
  simp only [step, hq, hd]

@[simp] theorem takeUndecoded_bytes (bs : List Byte) (s : State) : takeUndecoded (.bytes bs) s = feed bs s := rfl

/-- Settles O1, one clause per shape of the input queue. -/
theorem stepRunsTheDecodedInstruction : Obligations.StepRunsTheDecodedInstruction :=
  ⟨fun _ _ _ _ hq hd => step_decoded hq hd,
    fun _ _ _ _ hq hd => (step_undecoded hq hd).trans (takeUndecoded_bytes _ _),
    fun _ hq => step_idle hq⟩

end Sys2Proof.Machine
end

section
/-! PROOF. The rule each phase applies to a byte, and the rows `BYTE.<PHASE>` as the `BYTE` event (40_frame_scanner R130). -/

namespace Sys2Proof.Machine

variable {s : State}

theorem scanByte_hunt (h : s.phase = .hunt) (b : Byte) : scanByte b s = .next (scanHunt b s) := by rw [scanByte, h]
theorem scanByte_sync1 (h : s.phase = .sync1) (b : Byte) : scanByte b s = .next (scanSync1 b s) := by rw [scanByte, h]
theorem scanByte_cls (h : s.phase = .cls) (b : Byte) : scanByte b s = .next (scanCls b s) := by rw [scanByte, h]
theorem scanByte_id (h : s.phase = .id) (b : Byte) : scanByte b s = .next (scanId b s) := by rw [scanByte, h]
theorem scanByte_len0 (h : s.phase = .len0) (b : Byte) : scanByte b s = .next (scanLen0 b s) := by rw [scanByte, h]
theorem scanByte_len1 (h : s.phase = .len1) (b : Byte) : scanByte b s = .next (scanLen1 b s) := by rw [scanByte, h]
theorem scanByte_payload (h : s.phase = .payload) (b : Byte) : scanByte b s = scanPayload b s := by rw [scanByte, h]
theorem scanByte_ck0 (h : s.phase = .ck0) (b : Byte) : scanByte b s = .next (scanCk0 b s) := by rw [scanByte, h]
theorem scanByte_ck1 (h : s.phase = .ck1) (b : Byte) : scanByte b s = scanCk1 b s := by rw [scanByte, h]

/-- A phase row whose rule is the one `BYTE` applies in that phase is the `BYTE` event in every state. -/
theorem inPhase_eq_takeByte {row : Phase} {rule : Byte → State → Res}
    (hrule : ∀ {s : State}, s.phase = row → ∀ b, scanByte b s = rule b s) (d : Byte) (s : State) :
    inPhase row rule d s = takeByte d s := by
  by_cases h : s.mode = .run ∧ s.phase = row
  · obtain ⟨hm, hp⟩ := h
    rw [inPhase_hit hm hp, takeByte_run hm, hrule hp]
  · exact inPhase_miss h rule d

end Sys2Proof.Machine
end

section
/-! PROOF. Nothing that answers reads or rewrites what was put out before: it appends (00_scope R8, 10_state R20). -/

namespace Sys2Proof.Machine

/-- If `f` answers from `s`, then from `s` with any other earlier output it answers the same state with the same list
of events appended there. -/
def AppendsOutput (f : State → Res) (s : State) : Prop :=
  ∀ t, f s = .next t → ∃ l : List OutEvent, ∀ o : List OutEvent, f { s with out := o } = .next { t with out := o ++ l }

namespace AppendsOutput

variable {f g : State → Res} {s : State}

/-- A meaning may be replaced by another that agrees with it whatever was put out before. -/
theorem congr (hg : AppendsOutput g s) (hfg : ∀ o, f { s with out := o } = g { s with out := o }) :
    AppendsOutput f s := by
  intro t hf
  obtain ⟨l, hl⟩ := hg t ((hfg s.out).symm.trans hf)
  exact ⟨l, fun o => (hfg o).trans (hl o)⟩

theorem of_next {u : State → State} (l : List OutEvent) (hu : ∀ o, u { s with out := o } = { u s with out := o ++ l }) :
    AppendsOutput (fun s => .next (u s)) s := by
  rintro _ ⟨⟩
  exact ⟨l, fun o => congrArg Host.Outcome.next (hu o)⟩

/-- An update that puts nothing out. -/
theorem of_silent {u : State → State} (hu : ∀ o, u { s with out := o } = { u s with out := o }) :
    AppendsOutput (fun s => .next (u s)) s :=
  of_next [] fun o => by rw [hu o, List.append_nil]

theorem of_fault (e : Fault) : AppendsOutput (fun _ => .fault e) s := by
  rintro _ ⟨⟩

/-- The events of a sequence are those of its parts, in order. -/
theorem andThen (hf : AppendsOutput f s) (hg : ∀ t, AppendsOutput g t) :
    AppendsOutput (fun s => Machine.andThen (f s) g) s := by
  intro u hu
  obtain ⟨t, hft, hgt⟩ := andThen_eq_next.1 hu
  obtain ⟨l₁, h₁⟩ := hf t hft
  obtain ⟨l₂, h₂⟩ := hg t u hgt
  refine ⟨l₁ ++ l₂, fun o => ?_⟩
  simp only [h₁, andThen_next, h₂, List.append_assoc]

end AppendsOutput

open AppendsOutput

theorem raiseErr_appends (e : ErrInfo) (s : State) : AppendsOutput (fun s => .next (raiseErr e s)) s :=
  of_next [.err e] fun _ => rfl

theorem deliverRaw_appends (c i : Byte) (n : Half) (p : List Byte) (name : Option Nat) (s : State) :
    AppendsOutput (fun s => .next (deliverRaw c i n p name s)) s :=
  of_next [.record (.raw c i n name p)] fun _ => rfl

theorem deliverDecoded_appends (v : Variant) (c i : Byte) (n : Half) (p : List Byte) (r : Nat) (b : Decoded) (s : State) :
    AppendsOutput (fun s => .next (deliverDecoded v c i n p r b s)) s :=
  of_next [.record (.decoded v c i n r b (ackPart s.cfg v (recordFile v c i p b s)))] fun _ => rfl

theorem deliverFailure_appends (e : DecodeFail) (c i : Byte) (n : Half) (s : State) :
    AppendsOutput (fun s => .next (deliverFailure e c i n s)) s :=
  of_next [.err (failInfo e c i n)] fun _ => rfl

theorem dispatch_appends (c i : Byte) (n : Half) (p : List Byte) (s : State) : AppendsOutput (dispatch c i n p) s := by
  cases hl : lookup s.cfg c i with
  | none => exact (deliverRaw_appends c i n p none s).congr fun o => by simp only [dispatch, hl]
  | some found =>
    obtain ⟨r, row⟩ := found
    by_cases ht : row.tag = 0
    · exact (deliverRaw_appends c i n p (some r) s).congr fun o => by simp only [dispatch, hl, if_pos ht]
    · cases hu : usableLayout s.cfg row.tag with
      | none => exact (of_fault .invalidTables).congr fun o => by simp only [dispatch, hl, if_neg ht, hu]
      | some usable =>
        obtain ⟨v, l⟩ := usable
        cases hd : decodePayload s.cfg l p with
        | ok b =>
          exact (deliverDecoded_appends v c i n p r b s).congr fun o => by simp only [dispatch, hl, if_neg ht, hu, hd]
        | error e => exact (deliverFailure_appends e c i n s).congr fun o => by simp only [dispatch, hl, if_neg ht, hu, hd]

theorem scanSync1_appends (b : Byte) (s : State) : AppendsOutput (fun s => .next (scanSync1 b s)) s :=
  of_silent fun o => by
    by_cases h1 : b = s.cfg.preamble1
    · simp only [scanSync1, if_pos h1]
    · by_cases h0 : b = s.cfg.preamble0
      · simp only [scanSync1, if_neg h1, if_pos h0]
      · simp only [scanSync1, if_neg h1, if_neg h0]

/-- A `PAYLOAD` byte of an address `PBUF` has, as an update of the state. -/
def storePayload (b : Byte) (s : State) : State :=
  { sumByte b s with
    pbuf := pbufWrite s.pbuf s.cnt.toNat b
    phase := if lastByte s then .ck0 else .payload
    cnt := s.cnt + 1 }

theorem scanPayload_of_lt_pmax {s : State} (h : s.cnt.toNat < s.cfg.pmax) (b : Byte) :
    scanPayload b s = .next (storePayload b s) := if_pos h

theorem scanPayload_appends (b : Byte) (s : State) : AppendsOutput (scanPayload b) s := by
  by_cases h : s.cnt.toNat < s.cfg.pmax
  · have store : AppendsOutput (fun s => .next (storePayload b s)) s := of_silent fun _ => rfl
    exact store.congr fun o => scanPayload_of_lt_pmax (s := { s with out := o }) h b
  · exact (of_fault .pbufAddress).congr fun o => if_neg h

/-- A valid frame puts out its `RAWFRAME` and then what its dispatch does; a bad one its `ChecksumError`. -/
theorem scanCk1_appends (b : Byte) (s : State) : AppendsOutput (scanCk1 b) s := by
  by_cases h : ckMatch b s
  · have raw : AppendsOutput (fun s => .next (emit (.rawframe (rawFrame b s)) { s with phase := .hunt })) s :=
      of_next [.rawframe (rawFrame b s)] fun _ => rfl
    exact (raw.andThen (dispatch_appends s.cls s.id s.len (pbufBytes s.pbuf s.len.toNat))).congr fun o => if_pos h
  · have bad : AppendsOutput
        (fun s => .next (raiseErr (.checksumError s.cls s.id s.len s.rxa b s.cka s.ckb) { s with phase := .hunt })) s :=
      of_next [.err (.checksumError s.cls s.id s.len s.rxa b s.cka s.ckb)] fun _ => rfl
    exact bad.congr fun o => if_neg h

/-- A byte appends when the rule of the current phase does. -/
theorem scanByte_appends_of_phase {row : Phase} {rule : Byte → State → Res} {b : Byte} {s : State}
    (hrule : ∀ {s : State}, s.phase = row → ∀ b, scanByte b s = rule b s) (hp : s.phase = row)
    (h : AppendsOutput (rule b) s) : AppendsOutput (scanByte b) s :=
  h.congr fun o => hrule (s := { s with out := o }) hp b

theorem scanByte_appends (b : Byte) (s : State) : AppendsOutput (scanByte b) s := by
  cases hp : s.phase with
  | hunt => exact scanByte_appends_of_phase scanByte_hunt hp (of_silent fun _ => rfl)
  | sync1 => exact scanByte_appends_of_phase scanByte_sync1 hp (scanSync1_appends b s)
  | cls => exact scanByte_appends_of_phase scanByte_cls hp (of_silent fun _ => rfl)
  | id => exact scanByte_appends_of_phase scanByte_id hp (of_silent fun _ => rfl)
  | len0 => exact scanByte_appends_of_phase scanByte_len0 hp (of_silent fun _ => rfl)
  | len1 => exact scanByte_appends_of_phase scanByte_len1 hp (of_silent fun _ => rfl)
  | payload => exact scanByte_appends_of_phase scanByte_payload hp (scanPayload_appends b s)
  | ck0 => exact scanByte_appends_of_phase scanByte_ck0 hp (of_silent fun _ => rfl)
  | ck1 => exact scanByte_appends_of_phase scanByte_ck1 hp (scanCk1_appends b s)

theorem takeByte_appends (b : Byte) (s : State) : AppendsOutput (takeByte b) s := by
  cases hm : s.mode with
  | run => exact (scanByte_appends b s).congr fun o => takeByte_run (s := { s with out := o }) hm b
  | halt => exact (of_silent (u := id) fun _ => rfl).congr fun o => takeByte_halt (s := { s with out := o }) hm b

theorem feed_appends (bs : List Byte) (s : State) : AppendsOutput (feed bs) s := by
  induction bs generalizing s with
  | nil => exact of_silent (u := id) fun _ => rfl
  | cons b bs ih => exact ((takeByte_appends b s).andThen ih).congr fun _ => feed_cons b bs _

theorem takeEoc_appends (s : State) : AppendsOutput (fun s => .next (takeEoc s)) s := by
  rcases takeEoc_cases s with ⟨-, hm, hp⟩ | ⟨-, hm | hp⟩
  · exact (raiseErr_appends .incompleteFrame s).congr fun o => by simp [takeEoc, inFrame, hm, hp]
  · exact of_silent fun o => by simp only [takeEoc, hm]
  · exact of_silent fun o => by cases hm : s.mode <;> simp [takeEoc, inFrame, hm, hp]

theorem sendFrame_appends (c i : Byte) (p : List Byte) (s : State) : AppendsOutput (fun s => .next (sendFrame c i p s)) s := by
  cases hm : s.mode with
  | run => exact of_next [.txframe (buildFrame s.cfg c i p)] fun o => by simp only [sendFrame, hm, emit]
  | halt => exact of_silent fun o => by simp only [sendFrame, hm]

theorem execRst_appends (s : State) : AppendsOutput execRst s := by
  by_cases h : tablesValid s.cfgIn
  · have run : AppendsOutput (fun s => .next { resetRegs s with mode := .run }) s := of_silent fun _ => rfl
    exact run.congr fun o => if_pos h
  · have halt : AppendsOutput (fun s => .next (raiseErr .configFault { resetRegs s with mode := .halt })) s :=
      of_next [.err .configFault] fun _ => rfl
    exact halt.congr fun o => if_neg h

theorem inPhase_appends {row : Phase} {rule : Byte → State → Res}
    (hrule : ∀ {s : State}, s.phase = row → ∀ b, scanByte b s = rule b s) (d : Byte) (s : State) :
    AppendsOutput (inPhase row rule d) s :=
  (takeByte_appends d s).congr fun _ => inPhase_eq_takeByte hrule d _

/-- Every instruction: the frames are runs of bytes, the phase rows are `BYTE`. -/
theorem exec_appends (i : Instr) (s : State) : AppendsOutput (exec i) s := by
  cases i with
  | navPvt | navSvinfo | cfgPrt | cfgMsg | monVer | ackAck | ackNak | raw => exact feed_appends _ s
  | rst => exact execRst_appends s
  | byte d => exact takeByte_appends d s
  | byteHunt d => exact inPhase_appends scanByte_hunt d s
  | byteSync1 d => exact inPhase_appends scanByte_sync1 d s
  | byteCls d => exact inPhase_appends scanByte_cls d s
  | byteId d => exact inPhase_appends scanByte_id d s
  | byteLen0 d => exact inPhase_appends scanByte_len0 d s
  | byteLen1 d => exact inPhase_appends scanByte_len1 d s
  | bytePayload d => exact inPhase_appends scanByte_payload d s
  | byteCk0 d => exact inPhase_appends scanByte_ck0 d s
  | byteCk1 d => exact inPhase_appends scanByte_ck1 d s
  | eoc => exact takeEoc_appends s
  | byteEoc d => exact (takeByte_appends d s).andThen takeEoc_appends
  | nop | txnop => exact of_silent (u := id) fun _ => rfl
  | poll c j => exact sendFrame_appends c j [] s
  | cfgmsg c j r0 r1 r2 r3 r4 r5 =>
    exact sendFrame_appends s.cfg.rateCls s.cfg.rateId (c :: j :: [r0, r1, r2, r3, r4, r5].take s.cfg.nports) s

/-- Settles O50, by the append law of each operation: every event is one of its `emit`s, a frame is its bytes. -/
theorem eventsOnlyAppend : Obligations.EventsOnlyAppend :=
  fun i s t h => exec_appends i s t h

end Sys2Proof.Machine
end

section
/-! PROOF. Induction over instructions: each is made of `BYTE`, `EOC`, `RST` and TX frames, one after the other
(30_encoding R121, 60_exceptions R254). -/

namespace Sys2Proof.Machine

/-- A property of meanings that holds of the parts every instruction is made of, and of one meaning after another. The
header and payload of a TX frame may depend on the configuration in force (45_poll_builder R233). -/
structure Compositional (M : (State → Res) → Prop) : Prop where
  idle : M (fun s => .next s)
  seq : ∀ {f g}, M f → M g → M (fun s => andThen (f s) g)
  byte : ∀ b, M (takeByte b)
  eoc : M (fun s => .next (takeEoc s))
  rst : M execRst
  send : ∀ (c i : Config → Byte) (p : Config → List Byte),
    M (fun s => .next (sendFrame (c s.cfg) (i s.cfg) (p s.cfg) s))

namespace Compositional

variable {M : (State → Res) → Prop} (hM : Compositional M)
include hM

theorem feed (bs : List Byte) : M (feed bs) := by
  induction bs with
  | nil => exact hM.idle
  | cons b bs ih => exact hM.seq (hM.byte b) ih

theorem phaseRow {row : Phase} {rule : Byte → State → Res}
    (hrule : ∀ {s : State}, s.phase = row → ∀ b, scanByte b s = rule b s) (d : Byte) : M (inPhase row rule d) :=
  (funext (inPhase_eq_takeByte hrule d) : inPhase row rule d = takeByte d) ▸ hM.byte d

theorem exec (i : Instr) : M (exec i) := by
  cases i with
  | navPvt | navSvinfo | cfgPrt | cfgMsg | monVer | ackAck | ackNak | raw => exact hM.feed _
  | rst => exact hM.rst
  | byte d => exact hM.byte d
  | byteHunt d => exact hM.phaseRow scanByte_hunt d
  | byteSync1 d => exact hM.phaseRow scanByte_sync1 d
  | byteCls d => exact hM.phaseRow scanByte_cls d
  | byteId d => exact hM.phaseRow scanByte_id d
  | byteLen0 d => exact hM.phaseRow scanByte_len0 d
  | byteLen1 d => exact hM.phaseRow scanByte_len1 d
  | bytePayload d => exact hM.phaseRow scanByte_payload d
  | byteCk0 d => exact hM.phaseRow scanByte_ck0 d
  | byteCk1 d => exact hM.phaseRow scanByte_ck1 d
  | eoc => exact hM.eoc
  | byteEoc d => exact hM.seq (hM.byte d) hM.eoc
  | nop | txnop => exact hM.idle
  | poll c j => exact hM.send (fun _ => c) (fun _ => j) fun _ => []
  | cfgmsg c j r0 r1 r2 r3 r4 r5 =>
    exact hM.send (·.rateCls) (·.rateId) fun cfg => c :: j :: [r0, r1, r2, r3, r4, r5].take cfg.nports

theorem takeUndecoded (w : InWord) : M (takeUndecoded w) := by
  cases w with
  | bytes bs => exact hM.feed bs
  | rx | tx => exact hM.idle

theorem execAll (is : List Instr) : M (execAll is) := by
  induction is with
  | nil => exact hM.idle
  | cons i is ih => exact hM.seq (hM.exec i) ih

end Compositional

/-- The deliveries of a dispatch (42_dispatch R170): a raw record, a decoded record, a decode failure. -/
inductive Delivery (c i : Byte) (n : Half) (p : List Byte) : (State → State) → Prop
  | raw (name : Option Nat) : Delivery c i n p (deliverRaw c i n p name)
  | decoded (v : Variant) (r : Nat) (b : Decoded) : Delivery c i n p (deliverDecoded v c i n p r b)
  | failure (e : DecodeFail) : Delivery c i n p (deliverFailure e c i n)

/-- Which delivery a dispatch makes, or that it makes none, is decided by the configuration and the frame alone. -/
theorem dispatch_decided (cfg : Config) (c i : Byte) (n : Half) (p : List Byte) :
    (∃ u, Delivery c i n p u ∧ ∀ s, s.cfg = cfg → dispatch c i n p s = .next (u s)) ∨
      ∀ s, s.cfg = cfg → dispatch c i n p s = .fault .invalidTables := by
  cases hl : lookup cfg c i with
  | none =>
    refine .inl ⟨_, .raw none, ?_⟩
    rintro s rfl
    simp only [dispatch, hl]
  | some found =>
    obtain ⟨r, row⟩ := found
    by_cases ht : row.tag = 0
    · refine .inl ⟨_, .raw (some r), ?_⟩
      rintro s rfl
      simp only [dispatch, hl, if_pos ht]
    · cases hu : usableLayout cfg row.tag with
      | none =>
        right
        rintro s rfl
        simp only [dispatch, hl, if_neg ht, hu]
      | some usable =>
        obtain ⟨v, l⟩ := usable
        cases hd : decodePayload cfg l p with
        | ok b =>
          refine .inl ⟨_, .decoded v r b, ?_⟩
          rintro s rfl
          simp only [dispatch, hl, if_neg ht, hu, hd]
        | error e =>
          refine .inl ⟨_, .failure e, ?_⟩
          rintro s rfl
          simp only [dispatch, hl, if_neg ht, hu, hd]

end Sys2Proof.Machine
end

section
/-! PROOF. No meaning reads the record and error registers (10_state R46). -/

namespace Sys2Proof.Machine

/-- If `f` answers from `s`, then from `s` with any other record and error registers it answers a state that differs in
those registers only. -/
def IgnoresRegs (f : State → Res) (s : State) : Prop :=
  ∀ (r : RecRegs) (e : ErrRegs) (t : State), f s = .next t →
    ∃ (r' : RecRegs) (e' : ErrRegs), f { s with record := r, err := e } = .next { t with record := r', err := e' }

namespace IgnoresRegs

variable {f g : State → Res} {s : State}

/-- A meaning may be replaced by another that agrees with it whatever those registers hold. -/
theorem congr (hg : IgnoresRegs g s)
    (hfg : ∀ r e, f { s with record := r, err := e } = g { s with record := r, err := e }) : IgnoresRegs f s := by
  intro r e t hf
  obtain ⟨r', e', h⟩ := hg r e t ((hfg s.record s.err).symm.trans hf)
  exact ⟨r', e', (hfg r e).trans h⟩

theorem of_next {u : State → State}
    (hu : ∀ r e, ∃ r' e', u { s with record := r, err := e } = { u s with record := r', err := e' }) :
    IgnoresRegs (fun s => .next (u s)) s := by
  rintro r e _ ⟨⟩
  obtain ⟨r', e', h⟩ := hu r e
  exact ⟨r', e', congrArg Host.Outcome.next h⟩

/-- An update that keeps those registers. -/
theorem of_kept {u : State → State}
    (hu : ∀ r e, u { s with record := r, err := e } = { u s with record := r, err := e }) :
    IgnoresRegs (fun s => .next (u s)) s :=
  of_next fun r e => ⟨r, e, hu r e⟩

theorem idle : IgnoresRegs (fun s => .next s) s := of_kept (u := id) fun _ _ => rfl

theorem of_fault (x : Fault) : IgnoresRegs (fun _ => .fault x) s := by
  rintro r e _ ⟨⟩

theorem andThen (hf : IgnoresRegs f s) (hg : ∀ t, IgnoresRegs g t) : IgnoresRegs (fun s => Machine.andThen (f s) g) s := by
  intro r e u h
  obtain ⟨t, hft, hgt⟩ := andThen_eq_next.1 h
  obtain ⟨r₁, e₁, h₁⟩ := hf r e t hft
  obtain ⟨r₂, e₂, h₂⟩ := hg t r₁ e₁ u hgt
  exact ⟨r₂, e₂, andThen_eq_next.2 ⟨_, h₁, h₂⟩⟩

end IgnoresRegs

open IgnoresRegs

theorem raiseErr_ignoresRegs (x : ErrInfo) (s : State) : IgnoresRegs (fun s => .next (raiseErr x s)) s :=
  of_next fun r _ => ⟨r, _, rfl⟩

theorem Delivery.ignoresRegs {c i : Byte} {n : Half} {p : List Byte} {u : State → State} (h : Delivery c i n p u)
    (s : State) : IgnoresRegs (fun s => .next (u s)) s :=
  of_next fun _ _ => by cases h <;> exact ⟨_, _, rfl⟩

theorem dispatch_ignoresRegs (c i : Byte) (n : Half) (p : List Byte) (s : State) : IgnoresRegs (dispatch c i n p) s := by
  rcases dispatch_decided s.cfg c i n p with ⟨u, hu, hd⟩ | hd
  · exact (hu.ignoresRegs s).congr fun _ _ => hd _ rfl
  · exact (of_fault .invalidTables).congr fun _ _ => hd _ rfl

theorem scanSync1_ignoresRegs (b : Byte) (s : State) : IgnoresRegs (fun s => .next (scanSync1 b s)) s :=
  of_kept fun r e => by simp only [scanSync1]; split_ifs <;> rfl

theorem scanPayload_ignoresRegs (b : Byte) (s : State) : IgnoresRegs (scanPayload b) s := by
  by_cases h : s.cnt.toNat < s.cfg.pmax
  · have store : IgnoresRegs (fun s => .next (storePayload b s)) s := of_kept fun _ _ => rfl
    exact store.congr fun r e => scanPayload_of_lt_pmax (s := { s with record := r, err := e }) h b
  · exact (of_fault .pbufAddress).congr fun _ _ => if_neg h

theorem scanCk1_ignoresRegs (b : Byte) (s : State) : IgnoresRegs (scanCk1 b) s := by
  by_cases h : ckMatch b s
  · have raw : IgnoresRegs (fun s => .next (emit (.rawframe (rawFrame b s)) { s with phase := .hunt })) s :=
      of_kept fun _ _ => rfl
    exact (raw.andThen (dispatch_ignoresRegs s.cls s.id s.len (pbufBytes s.pbuf s.len.toNat))).congr fun _ _ => if_pos h
  · have bad : IgnoresRegs
        (fun s => .next (raiseErr (.checksumError s.cls s.id s.len s.rxa b s.cka s.ckb) { s with phase := .hunt })) s :=
      of_next fun r _ => ⟨r, _, rfl⟩
    exact bad.congr fun _ _ => if_neg h

/-- A byte ignores those registers when the rule of the current phase does. -/
theorem scanByte_ignoresRegs_of_phase {row : Phase} {rule : Byte → State → Res} {b : Byte} {s : State}
    (hrule : ∀ {s : State}, s.phase = row → ∀ b, scanByte b s = rule b s) (hp : s.phase = row)
    (h : IgnoresRegs (rule b) s) : IgnoresRegs (scanByte b) s :=
  h.congr fun r e => hrule (s := { s with record := r, err := e }) hp b

theorem scanByte_ignoresRegs (b : Byte) (s : State) : IgnoresRegs (scanByte b) s := by
  cases hp : s.phase with
  | hunt => exact scanByte_ignoresRegs_of_phase scanByte_hunt hp (of_kept fun _ _ => rfl)
  | sync1 => exact scanByte_ignoresRegs_of_phase scanByte_sync1 hp (scanSync1_ignoresRegs b s)
  | cls => exact scanByte_ignoresRegs_of_phase scanByte_cls hp (of_kept fun _ _ => rfl)
  | id => exact scanByte_ignoresRegs_of_phase scanByte_id hp (of_kept fun _ _ => rfl)
  | len0 => exact scanByte_ignoresRegs_of_phase scanByte_len0 hp (of_kept fun _ _ => rfl)
  | len1 => exact scanByte_ignoresRegs_of_phase scanByte_len1 hp (of_kept fun _ _ => rfl)
  | payload => exact scanByte_ignoresRegs_of_phase scanByte_payload hp (scanPayload_ignoresRegs b s)
  | ck0 => exact scanByte_ignoresRegs_of_phase scanByte_ck0 hp (of_kept fun _ _ => rfl)
  | ck1 => exact scanByte_ignoresRegs_of_phase scanByte_ck1 hp (scanCk1_ignoresRegs b s)

theorem takeByte_ignoresRegs (b : Byte) (s : State) : IgnoresRegs (takeByte b) s := by
  cases hm : s.mode with
  | run => exact (scanByte_ignoresRegs b s).congr fun r e => takeByte_run (s := { s with record := r, err := e }) hm b
  | halt => exact idle.congr fun r e => takeByte_halt (s := { s with record := r, err := e }) hm b

theorem takeEoc_ignoresRegs (s : State) : IgnoresRegs (fun s => .next (takeEoc s)) s := by
  rcases takeEoc_cases s with ⟨-, hm, hp⟩ | ⟨-, hm | hp⟩
  · exact (raiseErr_ignoresRegs .incompleteFrame s).congr fun _ _ => by simp [takeEoc, inFrame, hm, hp]
  · exact idle.congr fun _ _ => by simp only [takeEoc, hm]
  · exact idle.congr fun _ _ => by cases hm : s.mode <;> simp [takeEoc, inFrame, hp]

theorem execRst_ignoresRegs (s : State) : IgnoresRegs execRst s := by
  by_cases h : tablesValid s.cfgIn
  · have run : IgnoresRegs (fun s => .next { resetRegs s with mode := .run }) s := of_next fun _ _ => ⟨_, _, rfl⟩
    exact run.congr fun _ _ => if_pos h
  · have halt : IgnoresRegs (fun s => .next (raiseErr .configFault { resetRegs s with mode := .halt })) s :=
      of_next fun _ _ => ⟨_, _, rfl⟩
    exact halt.congr fun _ _ => if_neg h

theorem sendFrame_ignoresRegs (c i : Config → Byte) (p : Config → List Byte) (s : State) :
    IgnoresRegs (fun s => .next (sendFrame (c s.cfg) (i s.cfg) (p s.cfg) s)) s :=
  of_kept fun r e => by cases hm : s.mode <;> simp only [sendFrame, hm, emit]

theorem ignoresRegs_compositional : Compositional fun f => ∀ s, IgnoresRegs f s where
  idle _ := .idle
  seq hf hg s := (hf s).andThen hg
  byte := takeByte_ignoresRegs
  eoc := takeEoc_ignoresRegs
  rst := execRst_ignoresRegs
  send := sendFrame_ignoresRegs

/-- Settles O51: no part of an instruction reads those registers, and a dispatch is decided by the configuration and the
frame. -/
theorem recordAndErrorRegistersAreNeverRead : Obligations.RecordAndErrorRegistersAreNeverRead :=
  fun i s t r e h => ignoresRegs_compositional.exec i s r e t h

end Sys2Proof.Machine
end

section
/-! PROOF. Two runs that hear the same: between frames nothing of the past is left but the mode, the configurations and the
output (10_state R47). -/

namespace Sys2Proof.Machine

/-- The part of `BlockInv` that a run needs to answer: the room in `PBUF` and the valid tables. -/
def Sound (s : State) : Prop := MemoryOk s ∧ TablesOk s ∧ BufferFits s

/-- Two sound states with the same mode, configurations and output. -/
def SameSetting (s₁ s₂ : State) : Prop :=
  (Sound s₁ ∧ Sound s₂) ∧ s₁.mode = s₂.mode ∧ s₁.cfg = s₂.cfg ∧ s₁.cfgIn = s₂.cfgIn ∧ s₁.out = s₂.out

namespace SameSetting

variable {s₁ s₂ : State} (h : SameSetting s₁ s₂)
include h

theorem mode_eq : s₁.mode = s₂.mode := by
  obtain ⟨-, hmode, -⟩ := h
  exact hmode

theorem cfg_eq : s₁.cfg = s₂.cfg := by
  obtain ⟨-, -, hcfg, -⟩ := h
  exact hcfg

theorem tablesValid_of_run (hrun : s₁.mode = .run) : tablesValid s₁.cfg = true := by
  obtain ⟨⟨⟨-, htables, -⟩, -⟩, -⟩ := h
  exact htables hrun

end SameSetting

/-- The same checksum accumulators. -/
def SameSums (s₁ s₂ : State) : Prop := s₁.cka = s₂.cka ∧ s₁.ckb = s₂.ckb

/-- A header all of whose bytes have come, and the same sums of it. -/
def SameHeader (s₁ s₂ : State) : Prop := SameSums s₁ s₂ ∧ s₁.cls = s₂.cls ∧ s₁.id = s₂.id ∧ s₁.len = s₂.len

/-- The payload bytes below `n` are the same. -/
def SamePayload (n : Nat) (s₁ s₂ : State) : Prop := pbufBytes s₁.pbuf n = pbufBytes s₂.pbuf n

/-- What each phase knows of the frame it is in (40_frame_scanner R131 to R139): the registers that a later byte of the
frame can read. -/
def SameFrame : Phase → State → State → Prop
  | .hunt, _, _ => True
  | .sync1, _, _ => True
  | .cls, s₁, s₂ => SameSums s₁ s₂
  | .id, s₁, s₂ => SameSums s₁ s₂ ∧ s₁.cls = s₂.cls
  | .len0, s₁, s₂ => SameSums s₁ s₂ ∧ s₁.cls = s₂.cls ∧ s₁.id = s₂.id
  | .len1, s₁, s₂ => SameSums s₁ s₂ ∧ s₁.cls = s₂.cls ∧ s₁.id = s₂.id ∧ loByte s₁.len = loByte s₂.len
  | .payload, s₁, s₂ =>
    SameHeader s₁ s₂ ∧ s₁.cnt = s₂.cnt ∧ s₁.cnt.toNat < s₁.len.toNat ∧ SamePayload s₁.cnt.toNat s₁ s₂
  | .ck0, s₁, s₂ => SameHeader s₁ s₂ ∧ SamePayload s₁.len.toNat s₁ s₂
  | .ck1, s₁, s₂ => SameHeader s₁ s₂ ∧ SamePayload s₁.len.toNat s₁ s₂ ∧ s₁.rxa = s₂.rxa

/-- The relation that every instruction keeps: the same setting, the same phase, and the same frame so far. -/
def Alike (s₁ s₂ : State) : Prop :=
  SameSetting s₁ s₂ ∧ ∃ p : Phase, s₁.phase = p ∧ s₂.phase = p ∧ SameFrame p s₁ s₂

theorem alike_of_hunt {s₁ s₂ : State} (h : SameSetting s₁ s₂) (h₁ : s₁.phase = .hunt) (h₂ : s₂.phase = .hunt) :
    Alike s₁ s₂ :=
  ⟨h, .hunt, h₁, h₂, trivial⟩

/-- Both answers go on, in states alike. -/
def AnswerAlike (r₁ r₂ : Res) : Prop := ∃ t₁ t₂, r₁ = .next t₁ ∧ r₂ = .next t₂ ∧ Alike t₁ t₂

theorem answerAlike_next {t₁ t₂ : State} (h : Alike t₁ t₂) : AnswerAlike (.next t₁) (.next t₂) := ⟨t₁, t₂, rfl, rfl, h⟩

/-- From states alike the meaning answers in states alike. -/
def KeepsAlike (f : State → Res) : Prop := ∀ s₁ s₂, Alike s₁ s₂ → AnswerAlike (f s₁) (f s₂)

theorem KeepsAlike.andThen {f g : State → Res} (hf : KeepsAlike f) (hg : KeepsAlike g) :
    KeepsAlike (fun s => andThen (f s) g) := by
  intro s₁ s₂ h
  obtain ⟨t₁, t₂, e₁, e₂, ht⟩ := hf s₁ s₂ h
  simpa only [e₁, e₂, andThen_next] using hg t₁ t₂ ht

/-- `t` is `s` after it put out `l`, but for the registers that no rule reads and the counter of free values. -/
def PutsOut (l : List OutEvent) (s t : State) : Prop :=
  t = { s with out := s.out ++ l, record := t.record, err := t.err, draws := t.draws }

theorem Alike.putOut {s₁ s₂ t₁ t₂ : State} {l : List OutEvent} (h : Alike s₁ s₂) (h₁ : PutsOut l s₁ t₁)
    (h₂ : PutsOut l s₂ t₂) : Alike t₁ t₂ := by
  obtain ⟨⟨hs, hm, hc, hi, ho⟩, p, hp₁, hp₂, hf⟩ := h
  rw [h₁, h₂]
  refine ⟨⟨hs, hm, hc, hi, congrArg (· ++ l) ho⟩, p, hp₁, hp₂, ?_⟩
  cases p <;> exact hf

theorem emit_putsOut (e : OutEvent) (s : State) : PutsOut [e] s (emit e s) := rfl

theorem raiseErr_putsOut (e : ErrInfo) (s : State) : PutsOut [.err e] s (raiseErr e s) := rfl

theorem Alike.emit {s₁ s₂ : State} (h : Alike s₁ s₂) (e : OutEvent) : Alike (emit e s₁) (emit e s₂) :=
  h.putOut (emit_putsOut e s₁) (emit_putsOut e s₂)

theorem Alike.raiseErr {s₁ s₂ : State} (h : Alike s₁ s₂) (e : ErrInfo) : Alike (raiseErr e s₁) (raiseErr e s₂) :=
  h.putOut (raiseErr_putsOut e s₁) (raiseErr_putsOut e s₂)

/-- The event of a delivery is fixed by the frame and the configuration (42_dispatch R180). -/
theorem Delivery.putsOut {c i : Byte} {n : Half} {p : List Byte} {u : State → State} (hu : Delivery c i n p u)
    {s₁ s₂ : State} (hc : s₁.cfg = s₂.cfg) : ∃ e, PutsOut [e] s₁ (u s₁) ∧ PutsOut [e] s₂ (u s₂) := by
  cases hu with
  | raw name => exact ⟨.record (.raw c i n name p), rfl, rfl⟩
  | decoded v r b =>
    refine ⟨.record (.decoded v c i n r b (ackPart s₁.cfg v (recordFile v c i p b s₁))), rfl, ?_⟩
    rw [ackPart_recordFile hc]
    rfl
  | failure e => exact ⟨.err (failInfo e c i n), rfl, rfl⟩

theorem dispatch_keepsAlike (c i : Byte) (n : Half) (p : List Byte) {s₁ s₂ : State} (h : Alike s₁ s₂)
    (hv : tablesValid s₁.cfg = true) : AnswerAlike (dispatch c i n p s₁) (dispatch c i n p s₂) := by
  have hcfg := h.1.cfg_eq
  rcases dispatch_decided s₁.cfg c i n p with ⟨u, hu, hd⟩ | hd
  · obtain ⟨e, h₁, h₂⟩ := hu.putsOut hcfg
    rw [hd s₁ rfl, hd s₂ hcfg.symm]
    exact answerAlike_next (h.putOut h₁ h₂)
  · obtain ⟨t, ht⟩ := dispatch_answers hv c i n p
    cases (hd s₁ rfl).symm.trans ht

section
variable {s₁ s₂ : State}

theorem sumByte_sameSums (hc : s₁.cfg = s₂.cfg) (h : SameSums s₁ s₂) (b : Byte) :
    SameSums (sumByte b s₁) (sumByte b s₂) := by
  obtain ⟨ha, hb⟩ := h
  simp [SameSums, ha, hb, hc]

theorem pbufBytes_pbufWrite_succ {size : Nat} {m : Memory} (hm : Memory.wf size m = true) (n : Nat) (b : Byte) :
    pbufBytes (pbufWrite m n b) (n + 1) = pbufBytes m n ++ [b] := by
  rw [pbufBytes_succ, pbufBytes_pbufWrite hm le_rfl, pbufRead_pbufWrite hm, if_pos rfl]

theorem scanHunt_alike (h : SameSetting s₁ s₂) (b : Byte) : Alike (scanHunt b s₁) (scanHunt b s₂) := by
  have hc := h.cfg_eq
  by_cases hb : b = s₁.cfg.preamble0
  · exact ⟨h, .sync1, if_pos hb, if_pos (hc ▸ hb), trivial⟩
  · exact ⟨h, .hunt, if_neg hb, if_neg (hc ▸ hb), trivial⟩

theorem scanSync1_alike (h : SameSetting s₁ s₂) (b : Byte) : Alike (scanSync1 b s₁) (scanSync1 b s₂) := by
  have hp₀ : s₂.cfg.preamble0 = s₁.cfg.preamble0 := by rw [h.cfg_eq]
  have hp₁ : s₂.cfg.preamble1 = s₁.cfg.preamble1 := by rw [h.cfg_eq]
  simp only [scanSync1, hp₀, hp₁]
  split_ifs
  · exact ⟨h, .cls, rfl, rfl, rfl, rfl⟩
  · exact ⟨h, .sync1, rfl, rfl, trivial⟩
  · exact ⟨h, .hunt, rfl, rfl, trivial⟩

theorem scanCls_alike (h : SameSetting s₁ s₂) (hf : SameFrame .cls s₁ s₂) (b : Byte) :
    Alike (scanCls b s₁) (scanCls b s₂) :=
  ⟨h, .id, rfl, rfl, sumByte_sameSums h.cfg_eq hf b, rfl⟩

theorem scanId_alike (h : SameSetting s₁ s₂) (hf : SameFrame .id s₁ s₂) (b : Byte) :
    Alike (scanId b s₁) (scanId b s₂) := by
  obtain ⟨hsum, hcls⟩ := hf
  exact ⟨h, .len0, rfl, rfl, sumByte_sameSums h.cfg_eq hsum b, hcls, rfl⟩

theorem scanLen0_alike (h : SameSetting s₁ s₂) (hf : SameFrame .len0 s₁ s₂) (b : Byte) :
    Alike (scanLen0 b s₁) (scanLen0 b s₂) := by
  obtain ⟨hsum, hcls, hid⟩ := hf
  exact ⟨h, .len1, rfl, rfl, sumByte_sameSums h.cfg_eq hsum b, hcls, hid, by simp⟩

/-- The high byte of `LEN` completes the header; with `LEN = 0` there is no payload to differ. -/
theorem scanLen1_alike (h : SameSetting s₁ s₂) (hf : SameFrame .len1 s₁ s₂) (b : Byte) :
    Alike (scanLen1 b s₁) (scanLen1 b s₂) := by
  obtain ⟨hsum, hcls, hid, hlo⟩ := hf
  have hheader : SameHeader (scanLen1 b s₁) (scanLen1 b s₂) :=
    ⟨sumByte_sameSums h.cfg_eq hsum b, hcls, hid, congrArg (halfOf b) hlo⟩
  have hz₁ : (scanLen1 b s₁).phase = if halfOf b (loByte s₁.len) = 0 then .ck0 else .payload := by
    simp only [scanLen1_phase, lenZero, beq_iff_eq]
  have hz₂ : (scanLen1 b s₂).phase = if halfOf b (loByte s₁.len) = 0 then .ck0 else .payload := by
    simp only [scanLen1_phase, lenZero, beq_iff_eq, hlo]
  by_cases hz : halfOf b (loByte s₁.len) = 0
  · refine ⟨h, .ck0, hz₁.trans (if_pos hz), hz₂.trans (if_pos hz), hheader, ?_⟩
    simp [SamePayload, hz, pbufBytes]
  · refine ⟨h, .payload, hz₁.trans (if_neg hz), hz₂.trans (if_neg hz), hheader, rfl, ?_, rfl⟩
    exact Nat.pos_of_ne_zero fun h0 => hz (BitVec.eq_of_toNat_eq h0)

/-- `CNT < LEN` is an address `PBUF` has. -/
theorem cnt_lt_pmax {s : State} (hb : BufferFits s) (h : s.cnt.toNat < s.len.toNat) : s.cnt.toNat < s.cfg.pmax := by
  obtain ⟨hb, -⟩ := hb
  have := s.len.isLt
  omega

/-- A payload byte is stored at the same address of both buffers. -/
theorem scanPayload_alike (h : SameSetting s₁ s₂) (hf : SameFrame .payload s₁ s₂) (b : Byte) :
    AnswerAlike (scanPayload b s₁) (scanPayload b s₂) := by
  obtain ⟨⟨⟨hm₁, ht₁, hb₁⟩, hm₂, ht₂, hb₂⟩, hmode, hc, hrest⟩ := h
  obtain ⟨⟨hsum, hcls, hid, hlen⟩, hcnt, hlt, hpay⟩ := hf
  have hlt₁ := cnt_lt_pmax hb₁ hlt
  have hlt₂ := cnt_lt_pmax hb₂ (hcnt ▸ hlen ▸ hlt)
  rw [scanPayload_of_lt_pmax hlt₁, scanPayload_of_lt_pmax hlt₂]
  apply answerAlike_next
  have hset : SameSetting (storePayload b s₁) (storePayload b s₂) :=
    ⟨⟨⟨pbufWrite_wf hlt₁ b hm₁, ht₁, hb₁⟩, pbufWrite_wf hlt₂ b hm₂, ht₂, hb₂⟩, hmode, hc, hrest⟩
  have hheader : SameHeader (storePayload b s₁) (storePayload b s₂) := ⟨sumByte_sameSums hc hsum b, hcls, hid, hlen⟩
  have hstored : SamePayload (s₁.cnt.toNat + 1) (storePayload b s₁) (storePayload b s₂) := by
    simp only [SamePayload, storePayload, ← hcnt]
    rw [pbufBytes_pbufWrite_succ hm₁, pbufBytes_pbufWrite_succ hm₂, hpay]
  have hlast : lastByte s₂ = lastByte s₁ := by simp only [lastByte, hcnt, hlen]
  by_cases hl : lastByte s₁
  · have hcount : s₁.cnt.toNat + 1 = s₁.len.toNat := beq_iff_eq.1 hl
    exact ⟨hset, .ck0, if_pos hl, if_pos (hlast.trans hl), hheader, hcount ▸ hstored⟩
  · have hcount : s₁.cnt.toNat + 1 ≠ s₁.len.toNat := fun h => hl (beq_iff_eq.2 h)
    have hnext : (storePayload b s₁).cnt.toNat = s₁.cnt.toNat + 1 :=
      (BitVec.toNat_add s₁.cnt 1).trans (Nat.mod_eq_of_lt (by have := s₁.len.isLt; simp; omega))
    refine ⟨hset, .payload, if_neg hl, if_neg (hlast ▸ hl), hheader, congrArg (· + 1) hcnt, ?_, hnext ▸ hstored⟩
    rw [hnext]
    exact Nat.lt_of_le_of_ne hlt hcount

theorem scanCk0_alike (h : SameSetting s₁ s₂) (hf : SameFrame .ck0 s₁ s₂) (b : Byte) :
    Alike (scanCk0 b s₁) (scanCk0 b s₂) := by
  obtain ⟨hheader, hpay⟩ := hf
  exact ⟨h, .ck1, rfl, rfl, hheader, hpay, rfl⟩

/-- The two frames are the same bytes, so they are compared, put out and dispatched alike. -/
theorem scanCk1_alike (h : SameSetting s₁ s₂) (hrun : s₁.mode = .run) (hf : SameFrame .ck1 s₁ s₂) (b : Byte) :
    AnswerAlike (scanCk1 b s₁) (scanCk1 b s₂) := by
  have hc := h.cfg_eq
  obtain ⟨⟨⟨ha, hb⟩, hcls, hid, hlen⟩, hpay, hrxa⟩ := hf
  have halike : Alike { s₁ with phase := .hunt } { s₂ with phase := .hunt } := alike_of_hunt h rfl rfl
  have hpay' : pbufBytes s₂.pbuf s₂.len.toNat = pbufBytes s₁.pbuf s₁.len.toNat := by rw [← hlen, hpay]
  have hmatch : ckMatch b s₂ = ckMatch b s₁ := by simp only [ckMatch, ha, hb, hrxa]
  have hraw : rawFrame b s₂ = rawFrame b s₁ := by simp only [rawFrame, hc, hcls, hid, hrxa, hpay', hlen]
  by_cases hm : ckMatch b s₁
  · have e₂ : scanCk1 b s₂ =
        dispatch s₁.cls s₁.id s₁.len (pbufBytes s₁.pbuf s₁.len.toNat)
          (emit (.rawframe (rawFrame b s₁)) { s₂ with phase := .hunt }) := by
      rw [scanCk1, if_pos (hmatch ▸ hm), hraw, hpay', hcls, hid, hlen]
    rw [scanCk1, if_pos hm, e₂]
    exact dispatch_keepsAlike _ _ _ _ (halike.emit _) (h.tablesValid_of_run hrun)
  · have e₂ : scanCk1 b s₂ =
        .next (raiseErr (.checksumError s₁.cls s₁.id s₁.len s₁.rxa b s₁.cka s₁.ckb) { s₂ with phase := .hunt }) := by
      rw [scanCk1, if_neg (hmatch ▸ hm), hcls, hid, hlen, hrxa, ha, hb]
    rw [scanCk1, if_neg hm, e₂]
    exact answerAlike_next (halike.raiseErr _)

end

theorem scanByte_keepsAlike {s₁ s₂ : State} (h : Alike s₁ s₂) (hrun : s₁.mode = .run) (b : Byte) :
    AnswerAlike (scanByte b s₁) (scanByte b s₂) := by
  obtain ⟨hset, p, h₁, h₂, hf⟩ := h
  cases p with
  | hunt => rw [scanByte_hunt h₁, scanByte_hunt h₂]; exact answerAlike_next (scanHunt_alike hset b)
  | sync1 => rw [scanByte_sync1 h₁, scanByte_sync1 h₂]; exact answerAlike_next (scanSync1_alike hset b)
  | cls => rw [scanByte_cls h₁, scanByte_cls h₂]; exact answerAlike_next (scanCls_alike hset hf b)
  | id => rw [scanByte_id h₁, scanByte_id h₂]; exact answerAlike_next (scanId_alike hset hf b)
  | len0 => rw [scanByte_len0 h₁, scanByte_len0 h₂]; exact answerAlike_next (scanLen0_alike hset hf b)
  | len1 => rw [scanByte_len1 h₁, scanByte_len1 h₂]; exact answerAlike_next (scanLen1_alike hset hf b)
  | payload => rw [scanByte_payload h₁, scanByte_payload h₂]; exact scanPayload_alike hset hf b
  | ck0 => rw [scanByte_ck0 h₁, scanByte_ck0 h₂]; exact answerAlike_next (scanCk0_alike hset hf b)
  | ck1 => rw [scanByte_ck1 h₁, scanByte_ck1 h₂]; exact scanCk1_alike hset hrun hf b

theorem takeByte_keepsAlike (b : Byte) : KeepsAlike (takeByte b) := by
  intro s₁ s₂ h
  have hmode := h.1.mode_eq
  cases hm : s₁.mode with
  | run =>
    rw [takeByte_run hm, takeByte_run (hmode ▸ hm)]
    exact scanByte_keepsAlike h hm b
  | halt =>
    rw [takeByte_halt hm, takeByte_halt (hmode ▸ hm)]
    exact answerAlike_next h

theorem takeEoc_keepsAlike : KeepsAlike (fun s => .next (takeEoc s)) := by
  intro s₁ s₂ h
  have ⟨hset, p, h₁, h₂, _⟩ := h
  apply answerAlike_next
  simp only [takeEoc, inFrame, ← hset.mode_eq, h₁, h₂]
  split
  · split
    · exact h.raiseErr _
    · exact h
  · exact h

theorem sendFrame_keepsAlike (c i : Config → Byte) (p : Config → List Byte) :
    KeepsAlike (fun s => .next (sendFrame (c s.cfg) (i s.cfg) (p s.cfg) s)) := by
  intro s₁ s₂ h
  apply answerAlike_next
  simp only [sendFrame, ← h.1.mode_eq, ← h.1.cfg_eq]
  split
  · exact h.emit _
  · exact h

theorem execRst_keepsAlike : KeepsAlike execRst := by
  rintro s₁ s₂ ⟨⟨⟨⟨-, -, -, hb₁⟩, -, -, -, hb₂⟩, -, -, hi, ho⟩, -⟩
  by_cases hv : tablesValid s₁.cfgIn
  · have hv₂ : tablesValid s₂.cfgIn := hi ▸ hv
    rw [execRst, if_pos hv, execRst, if_pos hv₂]
    have hset : SameSetting { resetRegs s₁ with mode := .run } { resetRegs s₂ with mode := .run } :=
      ⟨⟨⟨rfl, fun _ => hv, hb₁, hb₁⟩, rfl, fun _ => hv₂, hb₂, hb₂⟩, rfl, hi, hi, ho⟩
    exact answerAlike_next (alike_of_hunt hset rfl rfl)
  · rw [execRst, if_neg hv, execRst, if_neg (hi ▸ hv)]
    have hset : SameSetting { resetRegs s₁ with mode := .halt } { resetRegs s₂ with mode := .halt } :=
      ⟨⟨⟨rfl, nofun, hb₁, hb₁⟩, rfl, nofun, hb₂, hb₂⟩, rfl, hi, hi, ho⟩
    exact answerAlike_next ((alike_of_hunt hset rfl rfl).raiseErr .configFault)

theorem keepsAlike_compositional : Compositional KeepsAlike where
  idle _ _ := answerAlike_next
  seq := .andThen
  byte := takeByte_keepsAlike
  eoc := takeEoc_keepsAlike
  rst := execRst_keepsAlike
  send := sendFrame_keepsAlike

/-- Settles O46: hunting states with the same setting are alike, and every instruction keeps them so. -/
theorem huntingForgetsThePast : Obligations.HuntingForgetsThePast := by
  rintro s₁ s₂ is ⟨hm₁, ht₁, hb₁, -⟩ ⟨hm₂, ht₂, hb₂, -⟩ hp₁ hp₂ hmode hc hi ho
  have halike : Alike s₁ s₂ :=
    alike_of_hunt ⟨⟨⟨hm₁, ht₁, hb₁⟩, hm₂, ht₂, hb₂⟩, hmode, hc, hi, ho⟩ hp₁ hp₂
  obtain ⟨t₁, t₂, h₁, h₂, ⟨-, -, -, -, hout⟩, -⟩ := keepsAlike_compositional.execAll is s₁ s₂ halike
  exact ⟨t₁, t₂, h₁, h₂, hout⟩

end Sys2Proof.Machine
end

section
/-! PROOF. A text register holds at most `TMAX` bytes and `TLEN` counts them (10_state R41). -/

namespace Sys2Proof.Machine

theorem freeT_length_le (tm draw j : Nat) : (freeT tm draw j).length ≤ tm := List.length_take_le _ _

/-- Every decoded text of a valid layout has at most `TMAX` bytes (42_dispatch R176 item 4, 43_field_decoder R192, R193). -/
theorem decodeFields_texts_fit {cfg : Config} {st : TextStrip} {p : List Byte} {fs : List Field}
    (hv : ∀ f ∈ fs, fieldValid cfg f = true) {fields : List FieldVal} {texts : List TextVal}
    (h : decodeFields st p fs = some (fields, texts)) : ∀ v ∈ texts, v.bytes.length ≤ cfg.tmax := by
  induction fs generalizing fields texts with
  | nil =>
    obtain ⟨-, rfl⟩ : [] = fields ∧ [] = texts := by simpa [decodeFields] using h
    simp
  | cons f fs ih =>
    have hvs : ∀ f ∈ fs, fieldValid cfg f = true := fun g hg => hv g (List.mem_cons_of_mem f hg)
    cases f with
    | num dst off ty k unit opt dflt =>
      rw [decodeFields] at h
      split_ifs at h <;> simp only [Option.map_eq_some_iff, Prod.mk.injEq] at h
      all_goals
        obtain ⟨⟨fields', texts'⟩, hrest, -, rfl⟩ := h
        exact ih hvs hrest
    | text dst off len k unit opt dflt =>
      have hlen : len ≤ cfg.tmax := by
        have := hv _ List.mem_cons_self
        simp only [fieldValid, Bool.and_eq_true, decide_eq_true_eq] at this
        omega
      have hread : (strip st (memReadBytes p off len)).length ≤ cfg.tmax :=
        calc (strip st (memReadBytes p off len)).length
          _ ≤ (memReadBytes p off len).length := strip_length_le _ _
          _ ≤ len := List.length_take_le _ _
          _ ≤ cfg.tmax := hlen
      rw [decodeFields] at h
      split_ifs at h <;> simp only [Option.map_eq_some_iff, Prod.mk.injEq] at h
      all_goals
        obtain ⟨⟨fields', texts'⟩, hrest, -, rfl⟩ := h
        simp only [List.forall_mem_cons]
      · exact ⟨hread, ih hvs hrest⟩
      · exact ⟨Nat.zero_le _, ih hvs hrest⟩

theorem decodePayload_texts_fit {cfg : Config} {l : Layout} (hl : layoutValid cfg l = true) {p : List Byte} {b : Decoded}
    (h : decodePayload cfg l p = .ok b) : ∀ v ∈ b.texts, v.bytes.length ≤ cfg.tmax := by
  have hv : ∀ f ∈ l.fields, fieldValid cfg f = true := by
    simp only [layoutValid, Bool.and_eq_true, List.all_eq_true] at hl
    tauto
  rw [decodePayload] at h
  split at h
  · cases h
  · rename_i fields texts hd
    have hfit := decodeFields_texts_fit hv hd
    split at h
    · cases h
      exact hfit
    · split_ifs at h
      cases h
      exact hfit

theorem usableLayout_valid {cfg : Config} {t : Nat} {v : Variant} {l : Layout} (h : usableLayout cfg t = some (v, l)) :
    layoutValid cfg l = true := by
  simp only [usableLayout] at h
  split at h
  · split_ifs at h with hl
    cases h
    exact hl
  · cases h

theorem textValue_mem {texts : List TextVal} {j : Nat} {bs : List Byte} (h : textValue texts j = some bs) :
    ∃ v ∈ texts, v.bytes = bs := by
  obtain ⟨v, hv, hb⟩ := Option.map_eq_some_iff.1 h
  exact ⟨v, List.mem_of_find?_eq_some hv, hb⟩

theorem textValue_getD_length_le {tm : Nat} {texts : List TextVal} (h : ∀ v ∈ texts, v.bytes.length ≤ tm)
    (draw j : Nat) : ((textValue texts j).getD (freeT tm draw j)).length ≤ tm := by
  cases hx : textValue texts j with
  | none => exact freeT_length_le tm draw j
  | some bs =>
    obtain ⟨v, hv, rfl⟩ := textValue_mem hx
    exact h v hv

/-- A meaning that answers keeps the text registers right. -/
def KeepsText (f : State → Res) : Prop := ∀ s t, TextOk s → f s = .next t → TextOk t

theorem KeepsText.of_next {u : State → State} (hu : ∀ s, TextOk s → TextOk (u s)) :
    KeepsText (fun s => .next (u s)) := by
  rintro s _ h ⟨⟩
  exact hu s h

/-- Text registers filled with texts of at most `TMAX` bytes and their lengths in the 5 bits of `TLEN` are right. -/
theorem textOk_of_texts {s : State} (htm : s.cfg.tmax < 32 ∧ s.cfgIn.tmax < 32) {f : Nat → List Byte}
    (hf : ∀ j, (f j).length ≤ s.cfg.tmax) (ht : s.record.t = tabulate 2 f)
    (hl : s.record.tlen = tabulate 2 fun j => BitVec.ofNat 5 (f j).length) : TextOk s := by
  refine ⟨htm, fun j => ?_⟩
  obtain ⟨htm, -⟩ := htm
  have h := hf j
  simp only [ht, hl, Fin.getElem_fin, tabulate_getElem, BitVec.toNat_ofNat]
  exact ⟨h, Nat.mod_eq_of_lt (by omega)⟩

@[simp] theorem ackRegs_t (draw : Nat) (ack : Option AckName) (r : RecRegs) : (ackRegs draw ack r).t = r.t := by
  rw [ackRegs_others]

@[simp] theorem ackRegs_tlen (draw : Nat) (ack : Option AckName) (r : RecRegs) : (ackRegs draw ack r).tlen = r.tlen := by
  rw [ackRegs_others]

theorem dispatch_keepsText (c i : Byte) (n : Half) (p : List Byte) : KeepsText (dispatch c i n p) := by
  intro s t hs h
  rcases dispatch_cases h with ⟨name, rfl⟩ | ⟨r, row, v, l, b, -, -, hu, hd, rfl⟩ | ⟨r, row, v, l, e, -, -, -, -, rfl⟩
  · exact hs
  · have hfit := decodePayload_texts_fit (usableLayout_valid hu) hd
    exact textOk_of_texts hs.1 (textValue_getD_length_le hfit s.draws) (ackRegs_t _ _ _) (ackRegs_tlen _ _ _)
  · exact textOk_of_texts hs.1 (freeT_length_le s.cfg.tmax s.draws) rfl rfl

theorem scanByte_keepsText (b : Byte) : KeepsText (scanByte b) := by
  intro s t hs h
  cases hp : s.phase with
  | hunt | cls | id | len0 | len1 | ck0 =>
    simp only [scanByte, hp] at h
    cases h
    exact hs
  | sync1 =>
    rw [scanByte_sync1 hp] at h
    cases h
    rcases scanSync1_cases b s with ⟨-, e⟩ | ⟨-, -, e⟩ | ⟨-, -, e⟩ <;> rw [e] <;> exact hs
  | payload =>
    rw [scanByte_payload hp] at h
    rcases scanPayload_cases b s with ⟨-, e⟩ | ⟨-, e⟩ <;> cases e.symm.trans h
    exact hs
  | ck1 =>
    rw [scanByte_ck1 hp, scanCk1] at h
    split_ifs at h
    · have hs' : TextOk (emit (.rawframe (rawFrame b s)) { s with phase := .hunt }) := hs
      exact dispatch_keepsText _ _ _ _ _ t hs' h
    · cases h
      exact hs

theorem takeByte_keepsText (b : Byte) : KeepsText (takeByte b) := by
  intro s t hs h
  cases hm : s.mode with
  | run => exact scanByte_keepsText b s t hs ((takeByte_run hm b).symm.trans h)
  | halt =>
    cases (takeByte_halt hm b).symm.trans h
    exact hs

theorem takeEoc_keepsText : KeepsText (fun s => .next (takeEoc s)) :=
  .of_next fun s hs => by rcases takeEoc_cases s with ⟨e, -⟩ | ⟨e, -⟩ <;> rw [e] <;> exact hs

theorem sendFrame_keepsText (c i : Config → Byte) (p : Config → List Byte) :
    KeepsText (fun s => .next (sendFrame (c s.cfg) (i s.cfg) (p s.cfg) s)) :=
  .of_next fun s hs => by
    rcases sendFrame_cases (c s.cfg) (i s.cfg) (p s.cfg) s with ⟨e, -⟩ | ⟨e, -⟩ <;> rw [e] <;> exact hs

theorem execRst_keepsText : KeepsText execRst := by
  rintro s t ⟨⟨-, htm⟩, -⟩ h
  rw [execRst] at h
  split_ifs at h <;> cases h <;> exact textOk_of_texts ⟨htm, htm⟩ (freeT_length_le s.cfgIn.tmax s.draws) rfl rfl

theorem keepsText_compositional : Compositional KeepsText where
  idle := .of_next (u := id) fun _ => id
  seq hf hg s u hs h := by
    obtain ⟨t, hft, hgt⟩ := andThen_eq_next.1 h
    exact hg t u (hf s t hs hft) hgt
  byte := takeByte_keepsText
  eoc := takeEoc_keepsText
  rst := execRst_keepsText
  send := sendFrame_keepsText

/-- Settles O49: the input queue is no text register, and every instruction and every run of bytes keeps them right. -/
theorem textLengthsStayRight : Obligations.TextLengthsStayRight := by
  intro s t hs h
  cases hq : s.inq with
  | nil =>
    cases (step_idle hq).symm.trans h
    exact hs
  | cons w rest =>
    have hs' : TextOk { s with inq := rest } := hs
    cases hd : decode w with
    | ok i => exact keepsText_compositional.exec i _ t hs' ((step_decoded hq hd).symm.trans h)
    | error e => exact keepsText_compositional.takeUndecoded w _ t hs' ((step_undecoded hq hd).symm.trans h)

end Sys2Proof.Machine
end

section
/-! PROOF. A TX request and any other event but `RST` commute: the request reads the mode and the configuration, which only
`RST` writes, and neither side reads what was put out before (20_memory R75, 45_poll_builder R234). -/

namespace Sys2Proof.Machine

theorem inPhase_keepsControl {row : Phase} {rule : Byte → State → Res}
    (hrule : ∀ {s : State}, s.phase = row → ∀ b, scanByte b s = rule b s) {d : Byte} {s t : State}
    (h : inPhase row rule d s = .next t) : KeepsControl s t :=
  takeByte_keepsControl ((inPhase_eq_takeByte hrule d s).symm.trans h)

/-- Every instruction but `RST`: the frames are runs of bytes, the phase rows are `BYTE`. -/
theorem exec_keepsControl {i : Instr} (hi : i ≠ .rst) {s t : State} (h : exec i s = .next t) : KeepsControl s t := by
  cases i with
  | rst => exact absurd rfl hi
  | navPvt | navSvinfo | cfgPrt | cfgMsg | monVer | ackAck | ackNak | raw => exact feed_keepsControl h
  | byte d => exact takeByte_keepsControl h
  | byteHunt d => exact inPhase_keepsControl scanByte_hunt h
  | byteSync1 d => exact inPhase_keepsControl scanByte_sync1 h
  | byteCls d => exact inPhase_keepsControl scanByte_cls h
  | byteId d => exact inPhase_keepsControl scanByte_id h
  | byteLen0 d => exact inPhase_keepsControl scanByte_len0 h
  | byteLen1 d => exact inPhase_keepsControl scanByte_len1 h
  | bytePayload d => exact inPhase_keepsControl scanByte_payload h
  | byteCk0 d => exact inPhase_keepsControl scanByte_ck0 h
  | byteCk1 d => exact inPhase_keepsControl scanByte_ck1 h
  | eoc =>
    cases h
    exact takeEoc_keepsControl s
  | byteEoc d =>
    obtain ⟨u, hbyte, heoc⟩ := andThen_eq_next.1 h
    cases heoc
    exact (takeByte_keepsControl hbyte).trans _ _ _ (takeEoc_keepsControl u)
  | nop | txnop =>
    cases h
    exact .refl s
  | poll | cfgmsg =>
    cases h
    exact sendFrame_keepsControl _ _ _ s

/-- What a TX frame puts out, which is all it does, is fixed by the mode and the configuration. -/
theorem sendFrame_decided (m : Mode) (cfg : Config) (c i : Byte) (p : List Byte) :
    ∃ l : List OutEvent, ∀ s : State, s.mode = m → s.cfg = cfg → sendFrame c i p s = { s with out := s.out ++ l } := by
  cases m with
  | run =>
    refine ⟨[.txframe (buildFrame cfg c i p)], ?_⟩
    rintro s hm rfl
    simp only [sendFrame, hm, emit]
  | halt =>
    refine ⟨[], fun s hm _ => ?_⟩
    have idle : sendFrame c i p s = s := by simp only [sendFrame, hm]
    rw [idle, List.append_nil]

/-- Every TX request puts out events that the mode and the configuration fix, and does nothing else. -/
theorem exec_tx_decided {x : Instr} (hx : IsTx x) (m : Mode) (cfg : Config) :
    ∃ l : List OutEvent, ∀ s : State, s.mode = m → s.cfg = cfg → exec x s = .next { s with out := s.out ++ l } := by
  cases x with
  | poll c j =>
    obtain ⟨l, hl⟩ := sendFrame_decided m cfg c j []
    exact ⟨l, fun s hm hc => congrArg Host.Outcome.next (hl s hm hc)⟩
  | cfgmsg c j r0 r1 r2 r3 r4 r5 =>
    obtain ⟨l, hl⟩ := sendFrame_decided m cfg cfg.rateCls cfg.rateId (c :: j :: [r0, r1, r2, r3, r4, r5].take cfg.nports)
    refine ⟨l, ?_⟩
    rintro s hm rfl
    exact congrArg Host.Outcome.next (hl s hm rfl)
  | txnop =>
    refine ⟨[], fun s _ _ => ?_⟩
    rw [List.append_nil]
    rfl
  | _ => exact hx.elim

/-- Settles O26: the request appends the same events before and after `i`, which keeps the mode and the configuration; `i`
appends the same events to whatever was put out. -/
theorem txAndRxCommute : Obligations.TxAndRxCommute := by
  intro s s1 s2 x i hx hi h1 h2
  obtain ⟨ox, hox⟩ := exec_tx_decided hx s.mode s.cfg
  obtain ⟨oi, hoi⟩ := exec_appends i s s2 h2
  obtain ⟨hmode, hcfg, -, -⟩ := exec_keepsControl hi h2
  obtain rfl : s1 = { s with out := s.out ++ ox } := Host.Outcome.next.inj (h1.symm.trans (hox s rfl rfl))
  have hout : s2.out = s.out ++ oi := congrArg State.out (Host.Outcome.next.inj (h2.symm.trans (hoi s.out)))
  exact ⟨ox, oi, _, _, rfl, hout, hoi (s.out ++ ox), rfl, hox s2 hmode hcfg, congrArg (· ++ ox) hout, rfl⟩

end Sys2Proof.Machine
end

section
/-! PROOF. The CK1 step sees `PBUF` through its first `LEN` bytes only, and keeps the buffer (20_memory R62). -/

namespace Sys2Proof.Machine

/-- From `s` with the buffer `m` the meaning `f` answers what it answers from `s`, with `m` for the buffer. -/
def CarriesBuffer (f : State → Res) (s : State) (m : Memory) : Prop :=
  ∀ t, f s = .next t → f { s with pbuf := m } = .next { t with pbuf := m }

theorem Delivery.pbuf {c i : Byte} {n : Half} {p : List Byte} {u : State → State} (hu : Delivery c i n p u) (s : State)
    (m : Memory) : u { s with pbuf := m } = { u s with pbuf := m } := by
  cases hu <;> rfl

/-- A dispatch is given its payload and reads no buffer. -/
theorem dispatch_carriesBuffer (c i : Byte) (n : Half) (p : List Byte) (s : State) (m : Memory) :
    CarriesBuffer (dispatch c i n p) s m := by
  intro t h
  rcases dispatch_decided s.cfg c i n p with ⟨u, hu, hd⟩ | hd
  · obtain rfl : u s = t := Host.Outcome.next.inj ((hd s rfl).symm.trans h)
    exact (hd { s with pbuf := m } rfl).trans (congrArg Host.Outcome.next (hu.pbuf s m))
  · cases (hd s rfl).symm.trans h

/-- A bad frame is reported by the registers alone; a good one is put out and dispatched by its payload. -/
theorem scanCk1_carriesBuffer (b : Byte) {s : State} {m : Memory}
    (hpay : pbufBytes m s.len.toNat = pbufBytes s.pbuf s.len.toNat) : CarriesBuffer (scanCk1 b) s m := by
  intro t h
  have hraw : rawFrame b { s with pbuf := m } = rawFrame b s := by simp only [rawFrame, hpay]
  by_cases hm : ckMatch b s
  · have hm' : ckMatch b { s with pbuf := m } := hm
    rw [scanCk1, if_pos hm] at h
    rw [scanCk1, if_pos hm', hraw, hpay]
    exact dispatch_carriesBuffer _ _ _ _ _ m t h
  · have hm' : ¬ ckMatch b { s with pbuf := m } := hm
    rw [scanCk1, if_neg hm] at h
    rw [scanCk1, if_neg hm']
    cases h
    rfl

/-- In mode `HALT` the byte does nothing; in mode `RUN` it gets the rule of phase `CK1`. -/
theorem takeByte_ck1_carriesBuffer (b : Byte) {s : State} {m : Memory} (hp : s.phase = .ck1)
    (hpay : pbufBytes m s.len.toNat = pbufBytes s.pbuf s.len.toNat) : CarriesBuffer (takeByte b) s m := by
  cases hmode : s.mode with
  | run =>
    intro t h
    rw [takeByte_run hmode, scanByte_ck1 hp] at h
    rw [takeByte_run (s := { s with pbuf := m }) hmode, scanByte_ck1 (s := { s with pbuf := m }) hp]
    exact scanCk1_carriesBuffer b hpay t h
  | halt =>
    intro t h
    rw [takeByte_halt hmode] at h
    cases h
    exact takeByte_halt (s := { s with pbuf := m }) hmode b

/-- Settles O52: the row is a `BYTE`, and two buffers that agree below `LEN` hold the same payload. -/
theorem bufferBeyondLenIsNeverSeen : Obligations.BufferBeyondLenIsNeverSeen := by
  intro s t d m hp hagree h
  have hbyte (r : State) : exec (.byteCk1 d) r = takeByte d r := inPhase_eq_takeByte scanByte_ck1 d r
  rw [hbyte] at h ⊢
  exact takeByte_ck1_carriesBuffer d hp (pbufBytes_congr hagree) t h

end Sys2Proof.Machine
end

section
/-! PROOF. A read is little-endian: its first byte, and 256 times the read of the bytes after it (20_memory R64, R65). -/

namespace Sys2Proof.Machine

@[simp] theorem memRead_zero (p : List Byte) (a : Nat) : memRead p a 0 = 0 := by
  simp [memRead, memReadBytes, leNat]

theorem memRead_succ {p : List Byte} {a : Nat} {b : Byte} (h : p[a]? = some b) (n : Nat) :
    memRead p a (n + 1) = b.toNat + 256 * memRead p (a + 1) n := by
  obtain ⟨ha, rfl⟩ := List.getElem?_eq_some_iff.1 h
  rw [memRead, memReadBytes, List.drop_eq_getElem_cons ha, List.take_succ_cons]
  rfl

section
variable {p : List Byte} {a : Nat} {b0 b1 b2 b3 : Byte}

theorem memRead_one (h0 : p[a]? = some b0) : memRead p a 1 = b0.toNat := by
  rw [memRead_succ h0, memRead_zero, Nat.mul_zero, Nat.add_zero]

theorem memRead_two (h0 : p[a]? = some b0) (h1 : p[a + 1]? = some b1) :
    memRead p a 2 = b0.toNat + 256 * b1.toNat := by
  rw [memRead_succ h0, memRead_one h1]

theorem memRead_four (h0 : p[a]? = some b0) (h1 : p[a + 1]? = some b1) (h2 : p[a + 2]? = some b2)
    (h3 : p[a + 3]? = some b3) :
    memRead p a 4 = b0.toNat + 256 * b1.toNat + 256 ^ 2 * b2.toNat + 256 ^ 3 * b3.toNat := by
  rw [memRead_succ h0, memRead_succ h1, memRead_two h2 h3]
  ring

end

/-- Settles O55, by the bytes of each read: each is below 256, so the low byte and the high half of a wide read are those of
the narrow ones. -/
theorem numbersAreReadLittleEndian : Obligations.NumbersAreReadLittleEndian := by
  refine fun p a => ⟨fun _ => memRead_one, fun _ _ => memRead_two, fun b0 b1 b2 b3 h0 h1 h2 h3 => ?_⟩
  have hwide := memRead_four h0 h1 h2 h3
  have hlow := memRead_one h0
  have hhigh : memRead p (a + 2) 2 = b2.toNat + 256 * b3.toNat := memRead_two h2 h3
  have l0 := b0.isLt
  have l1 := b1.isLt
  exact ⟨hwide, by omega, by omega⟩

end Sys2Proof.Machine
end

section
/-! PROOF. The RX and TX words as their fields side by side: what the decoder reads from them, and that the encoder writes
them (30_encoding R118). -/

namespace Sys2Proof

/-- A concatenation is a sum: the high part is shifted past the low one. -/
theorem toNat_append_eq_add {v w : Nat} (x : BitVec v) (y : BitVec w) :
    (x ++ y).toNat = 2 ^ w * x.toNat + y.toNat := by
  rw [BitVec.toNat_append, ← Nat.shiftLeft_add_eq_or_of_lt y.isLt, Nat.shiftLeft_eq, Nat.mul_comm]

theorem getLsbD_append_add {v w : Nat} (x : BitVec v) (y : BitVec w) (n : Nat) :
    (x ++ y).getLsbD (w + n) = x.getLsbD n := by
  rw [BitVec.getLsbD_append, if_neg (by omega), Nat.add_sub_cancel_left]

/-! ### RX words: `{rst, in_eoc, in_valid}` and the byte -/

/-- The three flags of an RX word decide its row; `rst` comes first. -/
theorem decodeRx_append (flags : BitVec 3) (d : Byte) :
    decodeRx (flags ++ d) =
      if flags.getLsbD 2 then .rst
      else if flags.getLsbD 1 then (if flags.getLsbD 0 then .byteEoc d else .eoc)
      else if flags.getLsbD 0 then .byte d else .nop := by
  have hrst : (flags ++ d).getLsbD 10 = flags.getLsbD 2 := getLsbD_append_add flags d 2
  have heoc : (flags ++ d).getLsbD 9 = flags.getLsbD 1 := getLsbD_append_add flags d 1
  have hvalid : (flags ++ d).getLsbD 8 = flags.getLsbD 0 := getLsbD_append_add flags d 0
  have hdata : (flags ++ d).extractLsb' 0 8 = d := BitVec.extractLsb'_append_eq_right
  simp only [decodeRx, hrst, heoc, hvalid, hdata]
  cases flags.getLsbD 1 <;> cases flags.getLsbD 0 <;> rfl

theorem decode_rst {w : BitVec 11} (h : w.getLsbD 10 = true) : decode (.rx w) = .ok .rst :=
  congrArg Except.ok (if_pos h)

theorem decode_nop (d : Byte) : decode (.rx (0b000#3 ++ d)) = .ok .nop := congrArg Except.ok (decodeRx_append _ d)
theorem decode_byte (d : Byte) : decode (.rx (0b001#3 ++ d)) = .ok (.byte d) := congrArg Except.ok (decodeRx_append _ d)
theorem decode_eoc (d : Byte) : decode (.rx (0b010#3 ++ d)) = .ok .eoc := congrArg Except.ok (decodeRx_append _ d)

theorem decode_byteEoc (d : Byte) : decode (.rx (0b011#3 ++ d)) = .ok (.byteEoc d) :=
  congrArg Except.ok (decodeRx_append _ d)

theorem byteWord_eq (eoc : Nat) (d : Byte) : byteWord eoc d = .rx (BitVec.ofNat 3 (2 * eoc + 1) ++ d) := by
  refine congrArg InWord.rx (BitVec.eq_of_toNat_eq ?_)
  rw [toNat_append_eq_add, BitVec.toNat_ofNat, BitVec.toNat_ofNat]
  omega

theorem decode_byteWord_zero (d : Byte) : decode (byteWord 0 d) = .ok (.byte d) := by
  rw [byteWord_eq]
  exact decode_byte d

theorem decode_byteWord_one (d : Byte) : decode (byteWord 1 d) = .ok (.byteEoc d) := by
  rw [byteWord_eq]
  exact decode_byteEoc d

/-! ### TX words: `{tx_req, tx_kind}`, the class, the id, and the rates -/

/-- The two flags of a TX word decide its row. -/
theorem decodeTx_append (flags : BitVec 2) (c j : Byte) (rates : BitVec 48) :
    decodeTx (flags ++ c ++ j ++ rates) =
      if flags.getLsbD 1 then
        if flags.getLsbD 0 then
          .cfgmsg c j (rates.extractLsb' 0 8) (rates.extractLsb' 8 8) (rates.extractLsb' 16 8) (rates.extractLsb' 24 8)
            (rates.extractLsb' 32 8) (rates.extractLsb' 40 8)
        else .poll c j
      else .txnop := by
  have hflag (n : Nat) : (flags ++ c ++ j ++ rates).getLsbD (48 + (8 + (8 + n))) = flags.getLsbD n := by
    rw [getLsbD_append_add, getLsbD_append_add, getLsbD_append_add]
  have hreq : (flags ++ c ++ j ++ rates).getLsbD 65 = flags.getLsbD 1 := hflag 1
  have hkind : (flags ++ c ++ j ++ rates).getLsbD 64 = flags.getLsbD 0 := hflag 0
  have hcls : (flags ++ c ++ j ++ rates).extractLsb' 56 8 = c := by
    rw [BitVec.extractLsb'_append_eq_of_le (by decide), BitVec.extractLsb'_append_eq_of_le (by decide)]
    exact BitVec.extractLsb'_append_eq_right
  have hid : (flags ++ c ++ j ++ rates).extractLsb' 48 8 = j := by
    rw [BitVec.extractLsb'_append_eq_of_le le_rfl]
    exact BitVec.extractLsb'_append_eq_right
  have hrate {start : Nat} (h : start + 8 ≤ 48) :
      (flags ++ c ++ j ++ rates).extractLsb' start 8 = rates.extractLsb' start 8 :=
    BitVec.extractLsb'_append_eq_of_add_le h
  simp (disch := decide) only [decodeTx, hreq, hkind, hcls, hid, hrate]

theorem decode_txnop {w : BitVec 66} (h : w.getLsbD 65 = false) : decode (.tx w) = .ok .txnop :=
  congrArg Except.ok (if_neg (Bool.eq_false_iff.1 h))

theorem decode_poll (c j : Byte) (rates : BitVec 48) : decode (.tx (0b10#2 ++ c ++ j ++ rates)) = .ok (.poll c j) :=
  congrArg Except.ok (decodeTx_append _ c j rates)

/-- The rates of a TX word, `r[0]` lowest. -/
def ratesWord (r0 r1 r2 r3 r4 r5 : Byte) : BitVec 48 := r5 ++ r4 ++ r3 ++ r2 ++ r1 ++ r0

theorem ratesWord_toNat (r0 r1 r2 r3 r4 r5 : Byte) :
    (ratesWord r0 r1 r2 r3 r4 r5).toNat =
      2 ^ 40 * r5.toNat + 2 ^ 32 * r4.toNat + 2 ^ 24 * r3.toNat + 2 ^ 16 * r2.toNat + 2 ^ 8 * r1.toNat + r0.toNat := by
  simp only [ratesWord, toNat_append_eq_add]
  omega

theorem decode_cfgmsg (c j r0 r1 r2 r3 r4 r5 : Byte) :
    decode (.tx (0b11#2 ++ c ++ j ++ ratesWord r0 r1 r2 r3 r4 r5)) = .ok (.cfgmsg c j r0 r1 r2 r3 r4 r5) := by
  refine congrArg Except.ok ((decodeTx_append _ c j _).trans ?_)
  refine (Instr.cfgmsg.injEq ..).mpr ⟨rfl, rfl, ?_, ?_, ?_, ?_, ?_, ?_⟩
  all_goals
    apply BitVec.eq_of_toNat_eq
    rw [BitVec.extractLsb'_toNat, ratesWord_toNat, Nat.shiftRight_eq_div_pow]
    omega

theorem txWord_eq (kind : Nat) (c j r0 r1 r2 r3 r4 r5 : Byte) :
    txWord kind c j r5 r4 r3 r2 r1 r0 = .tx (BitVec.ofNat 2 (2 + kind) ++ c ++ j ++ ratesWord r0 r1 r2 r3 r4 r5) := by
  refine congrArg InWord.tx (BitVec.eq_of_toNat_eq ?_)
  simp only [toNat_append_eq_add, ratesWord_toNat, BitVec.toNat_ofNat]
  omega

/-- Settles O4: the written words by evaluation, the words with don't-care bits by their flags. -/
theorem wordsOfTheTableDecode : Obligations.WordsOfTheTableDecode := by
  refine ⟨?_, ?_, ?_, ?_, ?_, ?_, ?_, ?_, ?_, ?_, ?_, ?_, ?_, ?_, ?_, ?_, fun _ => decode_rst,
    fun d => ⟨decode_eoc d, decode_nop d, decode_byte d, decode_byteEoc d⟩, fun _ => decode_txnop, decode_poll⟩
  all_goals decide

end Sys2Proof
end

section
/-! PROOF. A run of bytes decodes exactly when it is a frame of the table, and then to the row of its identity
(30_encoding R90, R96, R107). -/

namespace Sys2Proof

open Machine

theorem splitTail_eq_some {n : Nat} {rest p : List Byte} {a b : Byte} :
    splitTail n rest = some (p, a, b) ↔ rest = p ++ [a, b] ∧ p.length = n := by
  constructor
  · intro h
    rw [splitTail] at h
    split at h
    · rename_i a' b' htail
      cases h
      have hlen : rest.length - n = 2 := by rw [← List.length_drop, htail]; rfl
      exact ⟨by rw [← htail, List.take_append_drop], List.length_take_of_le (by omega)⟩
    · cases h
  · rintro ⟨rfl, rfl⟩
    simp [splitTail]

/-- Bytes laid out as a frame decode to the row of their identity. -/
theorem decodeFrame_of_splitTail {c i l0 l1 : Byte} {rest p : List Byte} {a b : Byte}
    (h : splitTail (halfOf l1 l0).toNat rest = some (p, a, b)) :
    decodeFrame (0xB5 :: 0x62 :: c :: i :: l0 :: l1 :: rest) = .ok (frameRow c i p a b) := by
  rw [decodeFrame, if_pos ⟨rfl, rfl⟩, h]

theorem decode_tableFrame {p : List Byte} (hfit : payloadFits p = true) (c i : Byte) (a b : Byte) :
    decode (.bytes (tableFrame c i p a b)) = .ok (frameRow c i p a b) := by
  have hlen : p.length = (BitVec.ofNat 16 p.length).toNat :=
    (Nat.mod_eq_of_lt (Nat.lt_succ_of_le (of_decide_eq_true hfit))).symm
  apply decodeFrame_of_splitTail
  rw [halfOf_hiByte_loByte]
  exact splitTail_eq_some.2 ⟨rfl, hlen⟩

/-- A run that decodes to a row is a frame of that row's identity; its length field counts the payload. -/
theorem decodeFrame_ok {bs : List Byte} {x : Instr} (h : decodeFrame bs = .ok x) :
    ∃ c i p a b, payloadFits p = true ∧ bs = tableFrame c i p a b ∧ x = frameRow c i p a b := by
  unfold decodeFrame at h
  split at h
  · rename_i p0 p1 c i l0 l1 rest
    split_ifs at h with hpre
    obtain ⟨rfl, rfl⟩ := hpre
    split at h
    · rename_i p a b htail
      cases h
      obtain ⟨rfl, hlen⟩ := splitTail_eq_some.1 htail
      have hfit : p.length ≤ 65535 := hlen ▸ Nat.le_of_lt_succ (halfOf l1 l0).isLt
      refine ⟨c, i, p, a, b, decide_eq_true hfit, ?_, rfl⟩
      simp [tableFrame, frameBytes, frameBody, hlen]
    · cases h
  · cases h

theorem frameRow_raw {c i : Byte} (h : namedIdentity c i = false) (p : List Byte) (a b : Byte) :
    frameRow c i p a b = .raw c i p a b := by
  obtain ⟨h1, h2, h3, h4, h5, h6, h7⟩ := (namedIdentity_eq_false c i).1 h
  simp only [frameRow, if_neg, h1, h2, h3, h4, h5, h6, h7, not_false_eq_true]

/-- A frame row carries its identity: it is well formed with a payload that fits, and its word is the frame's bytes. -/
theorem frameRow_encodes (c i : Byte) {p : List Byte} (hfit : payloadFits p = true) (a b : Byte) :
    (frameRow c i p a b).wellFormed = true ∧ encode (frameRow c i p a b) = .bytes (tableFrame c i p a b) := by
  cases hnamed : namedIdentity c i with
  | false =>
    rw [frameRow_raw hnamed]
    exact ⟨by simp [Instr.wellFormed, hnamed, hfit], rfl⟩
  | true =>
    simp only [namedIdentity, Bool.or_eq_true, Bool.and_eq_true, beq_iff_eq, or_assoc] at hnamed
    rcases hnamed with
        ⟨rfl, rfl⟩ | ⟨rfl, rfl⟩ | ⟨rfl, rfl⟩ | ⟨rfl, rfl⟩ | ⟨rfl, rfl⟩ | ⟨rfl, rfl⟩ | ⟨rfl, rfl⟩ <;>
      exact ⟨hfit, rfl⟩

/-- Settles O2: a frame row by the shape of its bytes, an RX or TX word by its flags. -/
theorem encodedInstructionsDecode : Obligations.EncodedInstructionsDecode := by
  intro i hi
  cases i with
  | navPvt | navSvinfo | cfgPrt | cfgMsg | monVer | ackAck | ackNak => exact decode_tableFrame hi _ _ _ _
  | raw c i p a b =>
    obtain ⟨hother, hfit⟩ := Bool.and_eq_true_iff.1 hi
    have hraw : namedIdentity c i = false := by simpa using hother
    exact (decode_tableFrame hfit c i a b).trans (congrArg Except.ok (frameRow_raw hraw p a b))
  | rst => exact decode_rst rfl
  | byte | byteHunt | byteSync1 | byteCls | byteId | byteLen0 | byteLen1 | bytePayload | byteCk0 | byteCk1 =>
    exact decode_byteWord_zero _
  | eoc => exact decode_eoc 0
  | byteEoc d => exact decode_byteWord_one d
  | nop => exact decode_nop 0
  | poll c j =>
    rw [encode, txWord_eq]
    exact decode_poll c j _
  | cfgmsg c j r0 r1 r2 r3 r4 r5 =>
    rw [encode, txWord_eq]
    exact decode_cfgmsg c j r0 r1 r2 r3 r4 r5
  | txnop => exact decode_txnop rfl

/-- Settles O3: a run that decodes is a frame of the table, whose row encodes to it. -/
theorem decodedFramesEncodeBack : Obligations.DecodedFramesEncodeBack := by
  intro bs x h
  obtain ⟨c, i, p, a, b, hfit, rfl, rfl⟩ := decodeFrame_ok h
  exact frameRow_encodes c i hfit a b

end Sys2Proof
end

section
/-! PROOF. From a state with the invariant every `BYTE` answers (20_memory R69, 42_dispatch R176); `BYTE+EOC` and the words that
carry no event (30_encoding R118, 60_exceptions R254). -/

namespace Sys2Proof.Machine

theorem scanPayload_answers {s : State} (hb : BufferFits s) (hcnt : s.cnt.toNat < s.len.toNat) (b : Byte) :
    Answers (scanPayload b s) := by
  obtain ⟨t, ht, -⟩ := scanPayload_next (cnt_lt_pmax hb hcnt) hcnt
  exact ⟨t, ht⟩

theorem scanCk1_answers {s : State} (hv : tablesValid s.cfg = true) (b : Byte) : Answers (scanCk1 b s) := by
  rw [scanCk1]
  split_ifs
  · have hv' : tablesValid (emit (.rawframe (rawFrame b s)) { s with phase := .hunt }).cfg = true := hv
    exact dispatch_answers hv' _ _ _ _
  · exact ⟨_, rfl⟩

/-- Only a payload byte and the last checksum byte could stop: the one has room in `PBUF`, the other valid tables. -/
theorem takeByte_answers {s : State} (h : BlockInv s) (b : Byte) : Answers (takeByte b s) := by
  obtain ⟨-, htables, hfits, hscan⟩ := h
  cases hm : s.mode with
  | halt => exact ⟨s, takeByte_halt hm b⟩
  | run =>
    rw [takeByte_run hm]
    cases hp : s.phase with
    | hunt => exact ⟨_, scanByte_hunt hp b⟩
    | sync1 => exact ⟨_, scanByte_sync1 hp b⟩
    | cls => exact ⟨_, scanByte_cls hp b⟩
    | id => exact ⟨_, scanByte_id hp b⟩
    | len0 => exact ⟨_, scanByte_len0 hp b⟩
    | len1 => exact ⟨_, scanByte_len1 hp b⟩
    | payload =>
      simp only [ScannerOk, hp] at hscan
      obtain ⟨hcnt, -⟩ := hscan
      rw [scanByte_payload hp]
      exact scanPayload_answers hfits hcnt b
    | ck0 => exact ⟨_, scanByte_ck0 hp b⟩
    | ck1 =>
      rw [scanByte_ck1 hp]
      exact scanCk1_answers (htables hm) b

theorem takeByte_ck0 {s : State} (hm : s.mode = .run) (hp : s.phase = .ck0) (b : Byte) :
    takeByte b s = .next (scanCk0 b s) :=
  (takeByte_run hm b).trans (scanByte_ck0 hp b)

theorem takeEoc_inFrame {s : State} (hm : s.mode = .run) (hp : s.phase ≠ .hunt) :
    takeEoc s = raiseErr .incompleteFrame s := by
  simp [takeEoc, inFrame, hm, hp]

/-- Settles O22: the `BYTE` answers, and the row is the two events in a row; after `CK0` the block waits for `CK1`, so the `EOC`
finds an incomplete frame. -/
theorem byteEocIsByteThenEoc : Obligations.ByteEocIsByteThenEoc := by
  intro s d h
  obtain ⟨t, ht⟩ := takeByte_answers h d
  refine ⟨t, takeEoc t, ht, rfl, andThen_eq_next.2 ⟨t, ht, rfl⟩, fun hm hp => ?_⟩
  obtain rfl : scanCk0 d s = t := Host.Outcome.next.inj ((takeByte_ck0 hm hp d).symm.trans ht)
  exact takeEoc_inFrame hm (by simp)

/-- Settles O23: both words have the meaning that leaves the state. -/
theorem noEventWordsDoNothing : Obligations.NoEventWordsDoNothing := fun _ => ⟨rfl, rfl⟩

end Sys2Proof.Machine
end

section
/-! PROOF. A number read from `n` bytes is below `256 ^ n`, and the extension of its type keeps its value (30_encoding R102, R103;
43_field_decoder R188). -/

namespace Sys2Proof.Machine

theorem leNat_lt (bs : List Byte) : leNat bs < 256 ^ bs.length := by
  induction bs with
  | nil => exact Nat.one_pos
  | cons b bs ih =>
    have hb := b.isLt
    rw [leNat, List.length_cons, Nat.pow_succ]
    omega

theorem memRead_lt (p : List Byte) (a n : Nat) : memRead p a n < 256 ^ n :=
  (leNat_lt _).trans_le (Nat.pow_le_pow_right (by decide) (List.length_take_le _ _))

theorem numSize_bounds (ty : NumTy) : 0 < numSize ty ∧ numSize ty ≤ 4 := by cases ty <;> decide

/-- The number a field's bytes make has as many bits as the field. -/
theorem memRead_numSize_lt (ty : NumTy) (p : List Byte) (off : Nat) :
    memRead p off (numSize ty) < 2 ^ (8 * numSize ty) := by
  rw [Nat.pow_mul]
  exact memRead_lt p off (numSize ty)

theorem readNumber_unsigned {ty : NumTy} (h : numSigned ty = false) (p : List Byte) (off : Nat) :
    (readNumber ty p off).toNat = memRead p off (numSize ty) := by
  have ⟨_, hsize⟩ := numSize_bounds ty
  have hlt : memRead p off (numSize ty) < 2 ^ 32 :=
    (memRead_numSize_lt ty p off).trans_le (Nat.pow_le_pow_right (by decide) (by omega))
  rw [readNumber, extend, h, if_neg Bool.false_ne_true, BitVec.toNat_ofNat, Nat.mod_eq_of_lt hlt]

/-- Sign extension keeps the two's-complement value of the field's own bits. -/
theorem readNumber_signed {ty : NumTy} (h : numSigned ty = true) (p : List Byte) (off : Nat) :
    (readNumber ty p off).toInt =
      if memRead p off (numSize ty) < 2 ^ (8 * numSize ty - 1) then (memRead p off (numSize ty) : Int)
      else (memRead p off (numSize ty) : Int) - 2 ^ (8 * numSize ty) := by
  have ⟨hpos, hsize⟩ := numSize_bounds ty
  have hlt := memRead_numSize_lt ty p off
  have hsign : 2 * memRead p off (numSize ty) < 2 ^ (8 * numSize ty) ↔
      memRead p off (numSize ty) < 2 ^ (8 * numSize ty - 1) := by
    rw [← Nat.two_pow_pred_mul_two (by omega : 0 < 8 * numSize ty)]
    omega
  rw [readNumber, extend, if_pos h, BitVec.toInt_signExtend_of_le (by omega), BitVec.toInt_eq_toNat_cond,
    BitVec.toNat_ofNat, Nat.mod_eq_of_lt hlt]
  simp only [hsign, Nat.cast_pow, Nat.cast_ofNat]

/-- Settles O56, by the signedness of the type. -/
theorem fieldsAreExtendedByTheirType : Obligations.FieldsAreExtendedByTheirType := fun p off =>
  ⟨fun _ => ⟨readNumber_signed rfl p off, readNumber_unsigned rfl p off, readNumber_unsigned rfl p off⟩,
    fun _ => ⟨readNumber_signed rfl p off, readNumber_unsigned rfl p off, readNumber_unsigned rfl p off⟩,
    fun _ => ⟨readNumber_signed rfl p off, readNumber_unsigned rfl p off, readNumber_unsigned rfl p off⟩⟩

end Sys2Proof.Machine
end

section
/-! PROOF. What `BYTE` and `EOC` do in each phase of mode `RUN`, and what they leave (40_frame_scanner R131 to R138, R140). -/

namespace Sys2Proof.Machine

theorem loByte_toNat (n : Half) : (loByte n).toNat = n.toNat % 256 := BitVec.toNat_ofNat _ _

theorem hiByte_toNat (n : Half) : (hiByte n).toNat = n.toNat / 256 := by
  have := n.isLt
  exact (BitVec.toNat_ofNat _ _).trans (Nat.mod_eq_of_lt (by omega))

theorem halfOf_toNat (h l : Byte) : (halfOf h l).toNat = 256 * h.toNat + l.toNat := by
  have := h.isLt
  have := l.isLt
  exact (BitVec.toNat_ofNat _ _).trans (Nat.mod_eq_of_lt (by omega))

/-- Settles O9: the row in its phase is the rule of `HUNT`. -/
theorem byteHuntLooksForThePreamble : Obligations.ByteHuntLooksForThePreamble :=
  fun _ d hm hp => execByteHunt_hit hm hp d

/-- Settles O10: the row in its phase is the rule of `SYNC1`. -/
theorem byteSync1CompletesThePreamble : Obligations.ByteSync1CompletesThePreamble :=
  fun _ d hm hp => execByteSync1_hit hm hp d

/-- Settles O11: the row in its phase is the rule of `CLS`. -/
theorem byteClsTakesTheClass : Obligations.ByteClsTakesTheClass :=
  fun _ d hm hp => execByteCls_hit hm hp d

/-- Settles O12: the row in its phase is the rule of `ID`. -/
theorem byteIdTakesTheId : Obligations.ByteIdTakesTheId :=
  fun _ d hm hp => execByteId_hit hm hp d

/-- Settles O13: the new length has the old high byte above the byte taken. -/
theorem byteLen0TakesTheLowLengthByte : Obligations.ByteLen0TakesTheLowLengthByte := by
  intro s d hm hp
  refine ⟨halfOf (hiByte s.len) d, ?_, execByteLen0_hit hm hp d⟩
  rw [halfOf_toNat, hiByte_toNat]

/-- Settles O14: the new length has the byte taken above the old low byte, and it is compared with 0. -/
theorem byteLen1TakesTheHighLengthByte : Obligations.ByteLen1TakesTheHighLengthByte := by
  intro s d hm hp
  refine ⟨halfOf d (loByte s.len), ?_, ?_⟩
  · rw [halfOf_toNat, loByte_toNat]
  · refine (execByteLen1_hit hm hp d).trans ?_
    simp only [scanLen1, lenZero, beq_iff_eq]
    rfl

/-- A payload byte below `LEN` counts without wrap. -/
theorem toNat_cnt_succ {s : State} (h : s.cnt.toNat < s.len.toNat) : (s.cnt + 1).toNat = s.cnt.toNat + 1 := by
  have := s.len.isLt
  exact (BitVec.toNat_add s.cnt 1).trans (Nat.mod_eq_of_lt (by simp; omega))

theorem storePayload_phase (b : Byte) (s : State) :
    (storePayload b s).phase = if s.cnt.toNat + 1 = s.len.toNat then .ck0 else .payload := by
  simp only [storePayload, lastByte, beq_iff_eq]

/-- Settles O15: the row stores the byte at `CNT` of a canonical buffer. -/
theorem bytePayloadStoresOneByte : Obligations.BytePayloadStoresOneByte := by
  intro s d hm hp hmem hroom hlt
  have hread := pbufRead_pbufWrite hmem s.cnt.toNat d
  refine ⟨storePayload d s, (execBytePayload_hit hm hp d).trans (scanPayload_of_lt_pmax hroom d), ?_, ?_,
    toNat_cnt_succ hlt, pbufWrite_wf hroom d hmem, ?_⟩
  · exact (hread _).trans (if_pos rfl)
  · exact fun x hx => (hread x).trans (if_neg hx)
  · rw [← storePayload_phase d s]
    rfl

/-- Settles O16: the row in its phase is the rule of `CK0`. -/
theorem byteCk0HoldsTheFirstChecksumByte : Obligations.ByteCk0HoldsTheFirstChecksumByte :=
  fun _ d hm hp => execByteCk0_hit hm hp d

/-- Settles O19: each row has the rule that `BYTE` applies in its phase, and is `BYTE` elsewhere. -/
theorem phaseRowsAreTheByteEvent : Obligations.PhaseRowsAreTheByteEvent := fun s d =>
  ⟨inPhase_eq_takeByte scanByte_hunt d s, inPhase_eq_takeByte scanByte_sync1 d s, inPhase_eq_takeByte scanByte_cls d s,
    inPhase_eq_takeByte scanByte_id d s, inPhase_eq_takeByte scanByte_len0 d s, inPhase_eq_takeByte scanByte_len1 d s,
    inPhase_eq_takeByte scanByte_payload d s, inPhase_eq_takeByte scanByte_ck0 d s,
    inPhase_eq_takeByte scanByte_ck1 d s⟩

/-- Settles O21: a frame is unfinished in every phase but `HUNT`. -/
theorem eocReportsAnUnfinishedFrame : Obligations.EocReportsAnUnfinishedFrame := by
  intro s hm
  refine congrArg Host.Outcome.next ?_
  by_cases hp : s.phase = .hunt
  · rw [if_neg (not_not.2 hp)]
    simp [takeEoc, inFrame, hm, hp]
  · rw [if_pos hp, takeEoc_inFrame hm hp]
    rfl

end Sys2Proof.Machine
end

section
/-! PROOF. A frame that arrives in phase `HUNT` is checked and then dispatched: the preamble, the body, the checksum pair
(40_frame_scanner R131 to R139). -/

namespace Sys2Proof.Machine

/-! ### The payload in the buffer -/

/-- The bytes `q` written from address `a` on. -/
def pbufStore : Memory → Nat → List Byte → Memory
  | m, _, [] => m
  | m, a, b :: q => pbufStore (pbufWrite m a b) (a + 1) q

theorem pbufRead_pbufStore {size : Nat} {q : List Byte} {m : Memory} {a : Nat} (hm : Memory.wf size m = true)
    (hq : a + q.length ≤ size) (x : Nat) :
    pbufRead (pbufStore m a q) x = if a ≤ x then (q[x - a]?).getD (pbufRead m x) else pbufRead m x := by
  induction q generalizing m a with
  | nil => simp [pbufStore]
  | cons b q ih =>
    rw [List.length_cons] at hq
    rw [pbufStore, ih (pbufWrite_wf (by omega) b hm) (by omega), pbufRead_pbufWrite hm]
    rcases lt_trichotomy x a with hx | rfl | hx
    · rw [if_neg (by omega), if_neg (by omega), if_neg (by omega)]
    · rw [if_neg (by omega), if_pos rfl, if_pos le_rfl, Nat.sub_self]
      rfl
    · rw [if_pos (by omega), if_neg (by omega), if_pos (by omega), show x - a = x - (a + 1) + 1 by omega]
      rfl

/-- A payload stored from address 0 on. -/
theorem pbufRead_payload {size : Nat} {p : List Byte} {m : Memory} (hm : Memory.wf size m = true) (hp : p.length ≤ size)
    (x : Nat) : pbufRead (pbufStore m 0 p) x = (p[x]?).getD (pbufRead m x) := by
  rw [pbufRead_pbufStore hm (by omega), if_pos (Nat.zero_le x), Nat.sub_zero]

theorem pbufBytes_payload {size : Nat} {p : List Byte} {m : Memory} (hm : Memory.wf size m = true) (hp : p.length ≤ size) :
    pbufBytes (pbufStore m 0 p) p.length = p := by
  apply List.ext_getElem (pbufBytes_length _ _)
  intro k hk hk'
  simp [pbufBytes, pbufRead_payload hm hp, hk']

/-! ### The bytes of a frame, phase by phase -/

theorem feed_cons_run {s t : State} {b : Byte} (hm : s.mode = .run) (h : scanByte b s = .next t) (bs : List Byte) :
    feed (b :: bs) s = feed bs t := by
  rw [feed_cons, takeByte_run hm, h, andThen_next]

/-- Both preamble bytes, also when they are equal (40_frame_scanner R132). -/
theorem feed_preamble {s : State} (hm : s.mode = .run) (hp : s.phase = .hunt) (bs : List Byte) :
    feed (s.cfg.preamble0 :: s.cfg.preamble1 :: bs) s = feed bs { s with cka := 0, ckb := 0, phase := .cls } := by
  have hsync : (scanHunt s.cfg.preamble0 s).phase = .sync1 := if_pos rfl
  rw [feed_cons_run hm (scanByte_hunt hp _),
    feed_cons_run (s := scanHunt s.cfg.preamble0 s) hm (scanByte_sync1 hsync _)]
  exact congrArg (feed bs) (if_pos rfl)

/-- A state of phase `CLS` after the header of a frame of identity `(c, i)` and length `n`. -/
def headerTaken (c i : Byte) (n : Half) (s : State) : State :=
  { s with
    phase := if n = 0 then .ck0 else .payload
    cls := c
    id := i
    len := n
    cnt := 0
    cka := (cksumFrom s.cfg.ckMod (s.cka, s.ckb) [c, i, loByte n, hiByte n]).1
    ckb := (cksumFrom s.cfg.ckMod (s.cka, s.ckb) [c, i, loByte n, hiByte n]).2 }

theorem feed_header {s : State} (hm : s.mode = .run) (hp : s.phase = .cls) (c i : Byte) (n : Half) (bs : List Byte) :
    feed (c :: i :: loByte n :: hiByte n :: bs) s = feed bs (headerTaken c i n s) := by
  have hlast : scanLen1 (hiByte n) (scanLen0 (loByte n) (scanId i (scanCls c s))) = headerTaken c i n s := by
    simp only [scanLen1, lenZero, beq_iff_eq, scanLen0_len, loByte_halfOf, halfOf_hiByte_loByte]
    rfl
  rw [feed_cons_run hm (scanByte_cls hp c), feed_cons_run (s := scanCls c s) hm (scanByte_id rfl i),
    feed_cons_run (s := scanId i (scanCls c s)) hm (scanByte_len0 rfl _),
    feed_cons_run (s := scanLen0 (loByte n) (scanId i (scanCls c s))) hm (scanByte_len1 rfl _), hlast]

/-- A state of phase `PAYLOAD`, or of phase `CK0` when no byte is due, after the last bytes `q` of the payload. -/
def payloadTaken (q : List Byte) (s : State) : State :=
  { s with
    phase := .ck0
    cnt := s.len
    cka := (cksumFrom s.cfg.ckMod (s.cka, s.ckb) q).1
    ckb := (cksumFrom s.cfg.ckMod (s.cka, s.ckb) q).2
    pbuf := pbufStore s.pbuf s.cnt.toNat q }

theorem feed_payload {q : List Byte} {s : State} (hm : s.mode = .run)
    (hp : s.phase = if s.cnt.toNat = s.len.toNat then .ck0 else .payload)
    (hlen : s.cnt.toNat + q.length = s.len.toNat) (hfit : s.len.toNat ≤ s.cfg.pmax) (bs : List Byte) :
    feed (q ++ bs) s = feed bs (payloadTaken q s) := by
  induction q generalizing s with
  | nil =>
    have hcnt : s.len = s.cnt := BitVec.eq_of_toNat_eq hlen.symm
    rw [if_pos (congrArg BitVec.toNat hcnt.symm)] at hp
    have hnone : payloadTaken [] s = s := by
      rw [payloadTaken, hcnt, ← hp]
      exact congrArg (fun n => { s with len := n }) hcnt.symm
    rw [hnone, List.nil_append]
  | cons b q ih =>
    rw [List.length_cons] at hlen
    have hlt : s.cnt.toNat < s.len.toNat := by omega
    rw [if_neg (by omega)] at hp
    have hnext := toNat_cnt_succ hlt
    rw [List.cons_append, feed_cons_run hm ((scanByte_payload hp b).trans (scanPayload_of_lt_pmax (by omega) b)),
      ih (s := storePayload b s) hm]
    · simp only [payloadTaken, storePayload, hnext]
      rfl
    · rw [storePayload_phase, ← hnext]
      rfl
    · simp only [storePayload, hnext, sumByte_len]
      omega
    · exact hfit

/-- A state of phase `HUNT` after the preamble and the body of a frame with payload `p`. -/
def bodyTaken (c i : Byte) (p : List Byte) (s : State) : State :=
  payloadTaken p (headerTaken c i (BitVec.ofNat 16 p.length) { s with cka := 0, ckb := 0, phase := .cls })

theorem toNat_ofNat_length {p : List Byte} (h : p.length ≤ 65535) : (BitVec.ofNat 16 p.length).toNat = p.length :=
  Nat.mod_eq_of_lt (Nat.lt_succ_of_le h)

theorem feed_body {s : State} {p : List Byte} (hm : s.mode = .run) (hp : s.phase = .hunt) (hlen : p.length ≤ 65535)
    (hfit : p.length ≤ s.cfg.pmax) (c i a b : Byte) :
    feed (frameBytes s.cfg.preamble0 s.cfg.preamble1 c i (BitVec.ofNat 16 p.length) p a b) s =
      feed [a, b] (bodyTaken c i p s) := by
  have hn := toNat_ofNat_length hlen
  have hzero : BitVec.ofNat 16 p.length = 0 ↔ (0 : Half).toNat = (BitVec.ofNat 16 p.length).toNat :=
    ⟨fun h => congrArg BitVec.toNat h.symm, fun h => BitVec.eq_of_toNat_eq h.symm⟩
  have hbytes : frameBytes s.cfg.preamble0 s.cfg.preamble1 c i (BitVec.ofNat 16 p.length) p a b =
      s.cfg.preamble0 :: s.cfg.preamble1 :: c :: i :: loByte (BitVec.ofNat 16 p.length) ::
        hiByte (BitVec.ofNat 16 p.length) :: (p ++ [a, b]) := rfl
  rw [hbytes, feed_preamble hm hp,
    feed_header (s := { s with cka := 0, ckb := 0, phase := .cls }) hm rfl,
    feed_payload (s := headerTaken c i (BitVec.ofNat 16 p.length) { s with cka := 0, ckb := 0, phase := .cls }) hm]
  · rfl
  · simp only [headerTaken, hzero]
  · exact (Nat.zero_add _).trans hn.symm
  · exact hn.trans_le hfit

/-- The checksum of the body, computed as its bytes come in. -/
theorem bodyTaken_cksum (c i : Byte) (p : List Byte) (s : State) :
    ((bodyTaken c i p s).cka, (bodyTaken c i p s).ckb) =
      cksum s.cfg.ckMod (frameBody c i (BitVec.ofNat 16 p.length) p) := by
  rw [cksum, frameBody, cksumFrom_append]
  rfl

/-- A state of phase `HUNT` after all bytes of a frame, before the frame is dispatched or refused. -/
def frameHeard (c i : Byte) (p : List Byte) (a : Byte) (s : State) : State :=
  { bodyTaken c i p s with rxa := a, phase := .hunt }

theorem frameHeard_taken {s : State} {p : List Byte} (hmem : MemoryOk s) (hfit : p.length ≤ s.cfg.pmax) (c i a : Byte) :
    FrameTaken c i p a s (frameHeard c i p a s) :=
  ⟨rfl, rfl, rfl, rfl, rfl, bodyTaken_cksum c i p s, rfl, pbufRead_payload hmem hfit, rfl, rfl, rfl, rfl⟩

/-- The checksum pair of a heard frame: compared, then dispatched or reported (40_frame_scanner R138, R139). -/
theorem feed_checksum {s : State} {p : List Byte} (hm : s.mode = .run) (hmem : MemoryOk s) (hlen : p.length ≤ 65535)
    (hfit : p.length ≤ s.cfg.pmax) (c i a b : Byte) :
    feed [a, b] (bodyTaken c i p s) =
      if (a, b) = cksum s.cfg.ckMod (frameBody c i (BitVec.ofNat 16 p.length) p) then
        dispatch c i (BitVec.ofNat 16 p.length) p
          (emit (.rawframe (frameBytes s.cfg.preamble0 s.cfg.preamble1 c i (BitVec.ofNat 16 p.length) p a b))
            (frameHeard c i p a s))
      else
        .next (raiseErr (.checksumError c i (BitVec.ofNat 16 p.length) a b (frameHeard c i p a s).cka
          (frameHeard c i p a s).ckb) (frameHeard c i p a s)) := by
  have hck1 : feed [a, b] (bodyTaken c i p s) = scanCk1 b (scanCk0 a (bodyTaken c i p s)) := by
    rw [feed_cons_run (s := bodyTaken c i p s) hm (scanByte_ck0 rfl a), feed_cons,
      takeByte_run (s := scanCk0 a (bodyTaken c i p s)) hm, scanByte_ck1 rfl]
    cases scanCk1 b (scanCk0 a (bodyTaken c i p s)) <;> rfl
  have hpay : pbufBytes (bodyTaken c i p s).pbuf (BitVec.ofNat 16 p.length).toNat = p :=
    (congrArg _ (toNat_ofNat_length hlen)).trans (pbufBytes_payload hmem hfit)
  have hmatch : ckMatch b (scanCk0 a (bodyTaken c i p s)) = true ↔
      (a, b) = cksum s.cfg.ckMod (frameBody c i (BitVec.ofNat 16 p.length) p) := by
    rw [← bodyTaken_cksum]
    simp [ckMatch]
  simp only [hck1, scanCk1, hmatch]
  split_ifs
  · have hraw : rawFrame b (scanCk0 a (bodyTaken c i p s)) =
        frameBytes s.cfg.preamble0 s.cfg.preamble1 c i (BitVec.ofNat 16 p.length) p a b :=
      congrArg (frameBytes s.cfg.preamble0 s.cfg.preamble1 c i (BitVec.ofNat 16 p.length) · a b) hpay
    rw [hraw]
    exact congrArg (dispatch c i (BitVec.ofNat 16 p.length) · _) hpay
  · rfl

/-- Settles O30: the state heard is checked against the sum computed on the way. -/
theorem frameReceptionIsCheckThenDispatch : Obligations.FrameReceptionIsCheckThenDispatch :=
  fun s c i a b p hm hp hmem hlen hfit =>
    ⟨frameHeard c i p a s, frameHeard_taken hmem hfit c i a, rfl, rfl, rfl, rfl,
      (feed_body hm hp hlen hfit c i a b).trans (feed_checksum hm hmem hlen hfit c i a b)⟩

/-- An instruction whose word is stream bytes is fed those bytes (30_encoding R121; log 4). -/
theorem exec_of_encode_bytes {x : Instr} {bs : List Byte} (h : encode x = .bytes bs) (s : State) : exec x s = feed bs s := by
  cases x with
  | navPvt | navSvinfo | cfgPrt | cfgMsg | monVer | ackAck | ackNak | raw =>
    cases h
    rfl
  | _ => cases h

theorem exec_frameRow {p : List Byte} (hlen : p.length ≤ 65535) (c i a b : Byte) (s : State) :
    exec (frameRow c i p a b) s = feed (tableFrame c i p a b) s := by
  obtain ⟨-, hword⟩ := frameRow_encodes c i (decide_eq_true hlen) a b
  exact exec_of_encode_bytes hword s

/-- Settles O39: the frame is heard, its pair is not the one computed, and the error is raised from the state heard. -/
theorem badChecksumDiscardsTheFrame : Obligations.BadChecksumDiscardsTheFrame := by
  rintro s c i p a b ca cb ⟨hm, hp, hc, hmem⟩ hlen hgood hne
  obtain ⟨u, htaken, hrecord, -, hout, -, hfeed⟩ :=
    frameReceptionIsCheckThenDispatch s c i a b p hm hp hmem hlen (by rw [hc]; exact hlen)
  have ⟨_, _, _, _, _, hsums, _⟩ := htaken
  rw [hc] at hsums hfeed
  obtain ⟨rfl, rfl⟩ := Prod.mk.inj (hsums.trans hgood.symm)
  have hbad : (a, b) ≠ cksum 256 (frameBody c i (BitVec.ofNat 16 p.length) p) := fun h => hne (h.trans hgood.symm)
  refine ⟨raiseErr (.checksumError c i (BitVec.ofNat 16 p.length) a b u.cka u.ckb) u, ?_, htaken, ?_, hrecord, rfl⟩
  · exact (exec_frameRow hlen c i a b s).trans (hfeed.trans (if_neg hbad))
  · rw [raiseErr_out, hout]

end Sys2Proof.Machine
end

section
/-! PROOF. Bytes that never complete the preamble leave the block hunting (40_frame_scanner R143). -/

namespace Sys2Proof.Machine

/-- The phase of a block that heard `g` in phase `HUNT` and no preamble: `SYNC1` when the last byte may begin one. -/
def garbagePhase (p0 : Byte) (g : List Byte) : Phase := if g.getLast? = some p0 then .sync1 else .hunt

/-- The next byte of garbage leaves `CLS` out of reach: after a first preamble byte it is no second one. -/
theorem scanByte_garbage {s : State} {g : List Byte} {b : Byte}
    (h : ¬ [s.cfg.preamble0, s.cfg.preamble1] <:+: g ++ [b]) :
    scanByte b { s with phase := garbagePhase s.cfg.preamble0 g } =
      .next { s with phase := garbagePhase s.cfg.preamble0 (g ++ [b]) } := by
  have hnext : garbagePhase s.cfg.preamble0 (g ++ [b]) = if b = s.cfg.preamble0 then .sync1 else .hunt := by
    simp [garbagePhase]
  rw [hnext]
  by_cases hlast : g.getLast? = some s.cfg.preamble0
  · obtain ⟨g, rfl⟩ := List.getLast?_eq_some_iff.1 hlast
    have hb : b ≠ s.cfg.preamble1 := by
      rintro rfl
      exact h ⟨g, [], by simp⟩
    have hp : garbagePhase s.cfg.preamble0 (g ++ [s.cfg.preamble0]) = .sync1 := if_pos hlast
    rw [hp, scanByte_sync1 rfl, scanSync1, if_neg hb]
    split_ifs <;> rfl
  · have hp : garbagePhase s.cfg.preamble0 g = .hunt := if_neg hlast
    rw [hp, scanByte_hunt rfl]
    rfl

theorem feed_garbage {s : State} (hm : s.mode = .run) (hp : s.phase = .hunt) {g : List Byte}
    (h : ¬ [s.cfg.preamble0, s.cfg.preamble1] <:+: g) :
    feed g s = .next { s with phase := garbagePhase s.cfg.preamble0 g } := by
  induction g using List.reverseRecOn with
  | nil => exact congrArg (fun p => Host.Outcome.next { s with phase := p }) hp
  | append_singleton g b ih =>
    have hg : ¬ [s.cfg.preamble0, s.cfg.preamble1] <:+: g := fun hin => h (hin.trans ⟨[], [b], rfl⟩)
    rw [feed_append, ih hg, andThen_next,
      feed_cons_run (s := { s with phase := garbagePhase s.cfg.preamble0 g }) hm (scanByte_garbage h)]
    rfl

/-- Settles O45: after the garbage the block is in `HUNT`, or in `SYNC1` where another first preamble byte keeps it. -/
theorem garbageBeforeAFrameIsHarmless : Obligations.GarbageBeforeAFrameIsHarmless := by
  intro s g rest hm hp hg hpre
  rw [feed_append, feed_garbage hm hp hg, andThen_next]
  by_cases hlast : g.getLast? = some s.cfg.preamble0
  · have hne : s.cfg.preamble0 ≠ s.cfg.preamble1 := hpre.resolve_right (not_not.2 hlast)
    have hsync : garbagePhase s.cfg.preamble0 g = .sync1 := if_pos hlast
    rw [hsync, feed_cons_run (s := { s with phase := .sync1 }) hm (scanByte_sync1 rfl _),
      feed_cons_run hm (scanByte_hunt hp _), scanSync1, if_neg hne, if_pos rfl, scanHunt, if_pos rfl]
  · have hhunt : garbagePhase s.cfg.preamble0 g = s.phase := (if_neg hlast).trans hp.symm
    rw [hhunt]

end Sys2Proof.Machine
end

section
/-! PROOF. Cutting a byte string into chunks adds `IncompleteFrame` reports and changes nothing else: no rule reads what was
put out or the error registers (40_frame_scanner R142). -/

namespace Sys2Proof.Machine

/-- `t` is `s` but for the error registers and for `IncompleteFrame` events among the output. -/
def SameButReports (s t : State) : Prop :=
  withoutIncomplete t.out = withoutIncomplete s.out ∧ t = { s with out := t.out, err := t.err }

theorem SameButReports.refl (s : State) : SameButReports s s := ⟨rfl, rfl⟩

theorem SameButReports.trans {r s t : State} (h₁ : SameButReports r s) (h₂ : SameButReports s t) : SameButReports r t := by
  obtain ⟨ho₁, h₁⟩ := h₁
  obtain ⟨ho₂, h₂⟩ := h₂
  rw [h₁] at h₂
  exact ⟨ho₂.trans ho₁, h₂⟩

/-- If `f` answers from `s`, it answers from every state that is the same but for reports, in a state that is again. -/
def IgnoresReports (f : State → Res) (s : State) : Prop :=
  ∀ (o : List OutEvent) (e : ErrRegs) (t : State), withoutIncomplete o = withoutIncomplete s.out → f s = .next t →
    ∃ t', f { s with out := o, err := e } = .next t' ∧ SameButReports t t'

namespace IgnoresReports

variable {f g : State → Res} {s : State}

/-- A meaning may be replaced by another that agrees with it whatever was reported. -/
theorem congr (hg : IgnoresReports g s)
    (hfg : ∀ o e, f { s with out := o, err := e } = g { s with out := o, err := e }) : IgnoresReports f s := by
  intro o e t ho hf
  obtain ⟨t', h, ht⟩ := hg o e t ho ((hfg s.out s.err).symm.trans hf)
  exact ⟨t', (hfg o e).trans h, ht⟩

/-- An update that puts out the events `l`, whatever it does to the error registers. -/
theorem of_next {u : State → State} (l : List OutEvent)
    (hu : ∀ o e, ∃ e', u { s with out := o, err := e } = { u s with out := o ++ l, err := e' }) :
    IgnoresReports (fun s => .next (u s)) s := by
  rintro o e _ ho ⟨⟩
  obtain ⟨_, hs⟩ := hu s.out s.err
  obtain ⟨e', h⟩ := hu o e
  have hout : (u s).out = s.out ++ l := congrArg State.out hs
  refine ⟨_, congrArg Host.Outcome.next h, ?_, rfl⟩
  simp only [withoutIncomplete, List.filter_append, hout] at ho ⊢
  rw [ho]

/-- An update that reports nothing. -/
theorem of_silent {u : State → State}
    (hu : ∀ o e, u { s with out := o, err := e } = { u s with out := o, err := e }) :
    IgnoresReports (fun s => .next (u s)) s :=
  of_next [] fun o e => ⟨e, by rw [hu o e, List.append_nil]⟩

theorem of_fault (x : Fault) : IgnoresReports (fun _ => .fault x) s := by
  rintro o e _ - ⟨⟩

theorem andThen (hf : IgnoresReports f s) (hg : ∀ t, IgnoresReports g t) :
    IgnoresReports (fun s => Machine.andThen (f s) g) s := by
  intro o e u ho h
  obtain ⟨t, hft, hgt⟩ := andThen_eq_next.1 h
  obtain ⟨t', hft', hout, hsame⟩ := hf o e t ho hft
  obtain ⟨u', hgu, hu⟩ := hg t t'.out t'.err u hout hgt
  rw [← hsame] at hgu
  exact ⟨u', andThen_eq_next.2 ⟨t', hft', hgu⟩, hu⟩

end IgnoresReports

open IgnoresReports

theorem Delivery.ignoresReports {c i : Byte} {n : Half} {p : List Byte} {u : State → State} (hu : Delivery c i n p u)
    (s : State) : IgnoresReports (fun s => .next (u s)) s := by
  cases hu with
  | raw name => exact of_next [.record (.raw c i n name p)] fun _ _ => ⟨_, rfl⟩
  | decoded v r b =>
    exact of_next [.record (.decoded v c i n r b (ackPart s.cfg v (recordFile v c i p b s)))] fun _ _ => ⟨_, rfl⟩
  | failure e => exact of_next [.err (failInfo e c i n)] fun _ _ => ⟨_, rfl⟩

theorem dispatch_ignoresReports (c i : Byte) (n : Half) (p : List Byte) (s : State) : IgnoresReports (dispatch c i n p) s := by
  rcases dispatch_decided s.cfg c i n p with ⟨u, hu, hd⟩ | hd
  · exact (hu.ignoresReports s).congr fun _ _ => hd _ rfl
  · exact (of_fault .invalidTables).congr fun _ _ => hd _ rfl

theorem scanCk1_ignoresReports (b : Byte) (s : State) : IgnoresReports (scanCk1 b) s := by
  by_cases h : ckMatch b s
  · have raw : IgnoresReports (fun s => .next (emit (.rawframe (rawFrame b s)) { s with phase := .hunt })) s :=
      of_next [.rawframe (rawFrame b s)] fun _ _ => ⟨_, rfl⟩
    exact (raw.andThen (dispatch_ignoresReports s.cls s.id s.len (pbufBytes s.pbuf s.len.toNat))).congr fun _ _ => if_pos h
  · have bad : IgnoresReports
        (fun s => .next (raiseErr (.checksumError s.cls s.id s.len s.rxa b s.cka s.ckb) { s with phase := .hunt })) s :=
      of_next [.err (.checksumError s.cls s.id s.len s.rxa b s.cka s.ckb)] fun _ _ => ⟨_, rfl⟩
    exact bad.congr fun _ _ => if_neg h

/-- A byte ignores the reports when the rule of the current phase does. -/
theorem scanByte_ignoresReports_of_phase {row : Phase} {rule : Byte → State → Res} {b : Byte} {s : State}
    (hrule : ∀ {s : State}, s.phase = row → ∀ b, scanByte b s = rule b s) (hp : s.phase = row)
    (h : IgnoresReports (rule b) s) : IgnoresReports (scanByte b) s :=
  h.congr fun o e => hrule (s := { s with out := o, err := e }) hp b

theorem scanByte_ignoresReports (b : Byte) (s : State) : IgnoresReports (scanByte b) s := by
  cases hp : s.phase with
  | hunt => exact scanByte_ignoresReports_of_phase scanByte_hunt hp (of_silent fun _ _ => rfl)
  | sync1 =>
    refine scanByte_ignoresReports_of_phase scanByte_sync1 hp (of_silent fun o e => ?_)
    simp only [scanSync1]
    split_ifs <;> rfl
  | cls => exact scanByte_ignoresReports_of_phase scanByte_cls hp (of_silent fun _ _ => rfl)
  | id => exact scanByte_ignoresReports_of_phase scanByte_id hp (of_silent fun _ _ => rfl)
  | len0 => exact scanByte_ignoresReports_of_phase scanByte_len0 hp (of_silent fun _ _ => rfl)
  | len1 => exact scanByte_ignoresReports_of_phase scanByte_len1 hp (of_silent fun _ _ => rfl)
  | payload =>
    apply scanByte_ignoresReports_of_phase scanByte_payload hp
    by_cases hroom : s.cnt.toNat < s.cfg.pmax
    · have store : IgnoresReports (fun s => .next (storePayload b s)) s := of_silent fun _ _ => rfl
      exact store.congr fun o e => scanPayload_of_lt_pmax (s := { s with out := o, err := e }) hroom b
    · exact (of_fault .pbufAddress).congr fun _ _ => if_neg hroom
  | ck0 => exact scanByte_ignoresReports_of_phase scanByte_ck0 hp (of_silent fun _ _ => rfl)
  | ck1 => exact scanByte_ignoresReports_of_phase scanByte_ck1 hp (scanCk1_ignoresReports b s)

theorem takeByte_ignoresReports (b : Byte) (s : State) : IgnoresReports (takeByte b) s := by
  cases hm : s.mode with
  | run => exact (scanByte_ignoresReports b s).congr fun o e => takeByte_run (s := { s with out := o, err := e }) hm b
  | halt =>
    exact (of_silent (u := id) fun _ _ => rfl).congr fun o e => takeByte_halt (s := { s with out := o, err := e }) hm b

theorem feed_ignoresReports (bs : List Byte) (s : State) : IgnoresReports (feed bs) s := by
  induction bs generalizing s with
  | nil => exact of_silent (u := id) fun _ _ => rfl
  | cons b bs ih => exact ((takeByte_ignoresReports b s).andThen ih).congr fun _ _ => feed_cons b bs _

theorem takeEoc_sameButReports (s : State) : SameButReports s (takeEoc s) := by
  rcases takeEoc_cases s with ⟨e, -⟩ | ⟨e, -⟩ <;> rw [e]
  · exact ⟨by simp [withoutIncomplete], rfl⟩
  · exact .refl s

theorem feedChunks_sameButReports {cs : List (List Byte)} {s s' w : State} (h : feed cs.flatten s = .next w)
    (hs : SameButReports s s') : ∃ u, feedChunks cs s' = .next u ∧ SameButReports w u := by
  induction cs generalizing s s' with
  | nil =>
    cases h
    exact ⟨s', rfl, hs⟩
  | cons c cs ih =>
    rw [List.flatten_cons, feed_append, andThen_eq_next] at h
    obtain ⟨r, hchunk, hrest⟩ := h
    obtain ⟨hout, hs⟩ := hs
    obtain ⟨r', hchunk', hr⟩ := feed_ignoresReports c s s'.out s'.err r hout hchunk
    rw [← hs] at hchunk'
    obtain ⟨u, hu, hw⟩ := ih hrest (hr.trans (takeEoc_sameButReports r'))
    exact ⟨u, andThen_eq_next.2 ⟨r', hchunk', hu⟩, hw⟩

/-- Settles O44: a chunk's `EOC` reports at most an `IncompleteFrame`, and no later byte sees that it did. -/
theorem chunkingDoesNotMatter : Obligations.ChunkingDoesNotMatter := by
  intro s w cs h
  obtain ⟨u, hu, hout, hsame⟩ := feedChunks_sameButReports h (.refl s)
  exact ⟨u, hu, hout, hsame⟩

end Sys2Proof.Machine
end

section
/-! PROOF. The invariant of the block: each byte keeps the relations of its phase (40_frame_scanner R141), and each event keeps
`PBUF` and the tables right (20_memory R69, 60_exceptions R261). -/

namespace Sys2Proof.Machine

/-! ### What a dispatch puts out -/

theorem PutsOut.trans {l l' : List OutEvent} {r s t : State} (h₁ : PutsOut l r s) (h₂ : PutsOut l' s t) :
    PutsOut (l ++ l') r t := by
  rw [h₁] at h₂
  rw [PutsOut, ← List.append_assoc]
  exact h₂

/-- A dispatch that answers puts out one event: a record, or a decode failure of the frame (42_dispatch R179). -/
theorem dispatch_putsOut {c i : Byte} {n : Half} {p : List Byte} {s t : State} (h : dispatch c i n p s = .next t) :
    ∃ e, PutsOut [e] s t ∧
      ((∃ r, e = .record r) ∨ e = .err (.truncatedPayload c i n) ∨ e = .err (.groupSizeMismatch c i n)) := by
  rcases dispatch_cases h with ⟨name, rfl⟩ | ⟨r, row, v, l, b, -, -, -, -, rfl⟩ | ⟨r, row, v, l, e, -, -, -, -, rfl⟩
  · exact ⟨_, rfl, .inl ⟨.raw c i n name p, rfl⟩⟩
  · exact ⟨_, rfl, .inl ⟨.decoded v c i n r b (ackPart s.cfg v (recordFile v c i p b s)), rfl⟩⟩
  · cases e with
    | truncated => exact ⟨_, rfl, .inr (.inl rfl)⟩
    | groupSize => exact ⟨_, rfl, .inr (.inr rfl)⟩

/-- The last byte of a frame ends it, with or without a record, and keeps the scanner registers and `PBUF`. -/
theorem scanCk1_putsOut {b : Byte} {s t : State} (h : scanCk1 b s = .next t) :
    ∃ l, PutsOut l { s with phase := .hunt } t := by
  rw [scanCk1] at h
  split_ifs at h
  · obtain ⟨e, he, -⟩ := dispatch_putsOut h
    exact ⟨_, (emit_putsOut _ _).trans he⟩
  · cases h
    exact ⟨_, raiseErr_putsOut _ _⟩

/-- Settles O18: the frame is put out raw, and under valid tables its dispatch answers with one event. -/
theorem byteCk1DeliversAValidFrame : Obligations.ByteCk1DeliversAValidFrame := by
  rintro s d ⟨-, htables, -, -⟩ hm hp ha hb
  have hvalid : tablesValid (emit (.rawframe (rawFrame d s)) { s with phase := .hunt }).cfg = true := htables hm
  obtain ⟨t, ht⟩ := dispatch_answers hvalid s.cls s.id s.len (pbufBytes s.pbuf s.len.toNat)
  obtain ⟨e, he, hkind⟩ := dispatch_putsOut ht
  have hmatch : ckMatch d s := by simp [ckMatch, ha, hb]
  have hput := (emit_putsOut (.rawframe (rawFrame d s)) { s with phase := .hunt }).trans he
  have hout : t.out = s.out ++ [.rawframe (rawFrame d s), e] := congrArg State.out hput
  refine ⟨t, e, ?_, hout, hkind, ?_⟩
  · rw [← ht]
    exact (execByteCk1_hit hm hp d).trans (if_pos hmatch)
  · rw [hout]
    exact hput

/-! ### The relations of the phases -/

/-- The high byte of `LEN` makes it 0 when both bytes are. -/
theorem lenZero_iff (b : Byte) (s : State) : lenZero b s = true ↔ b = 0 ∧ s.len.toNat % 256 = 0 := by
  rw [lenZero, beq_iff_eq, ← BitVec.toNat_inj, ← BitVec.toNat_inj, halfOf_toNat, loByte_toNat]
  simp

/-- A summed byte continues the checksum of the bytes before it (41_checksum R161). -/
theorem sumByte_cksum {s : State} {xs : List Byte} (h : (s.cka, s.ckb) = cksum s.cfg.ckMod xs) (b : Byte) :
    ((sumByte b s).cka, (sumByte b s).ckb) = cksum s.cfg.ckMod (xs ++ [b]) := by
  rw [cksum_snoc, ← h]
  rfl

theorem frameBody_halfOf (c i h l : Byte) (p : List Byte) : frameBody c i (halfOf h l) p = [c, i, l, h] ++ p := by
  rw [frameBody, loByte_halfOf, hiByte_halfOf]

theorem scanLen1_scannerOk {s : State} (h : (s.cka, s.ckb) = cksum s.cfg.ckMod [s.cls, s.id, loByte s.len]) (b : Byte) :
    ScannerOk (scanLen1 b s) := by
  have hsum : ((scanLen1 b s).cka, (scanLen1 b s).ckb) =
      cksum s.cfg.ckMod (frameBody s.cls s.id (halfOf b (loByte s.len)) (pbufBytes s.pbuf 0)) := by
    rw [frameBody_halfOf]
    exact sumByte_cksum h b
  by_cases hz : halfOf b (loByte s.len) = 0
  · have hp : (scanLen1 b s).phase = .ck0 := if_pos (beq_iff_eq.2 hz)
    have hn : (halfOf b (loByte s.len)).toNat = 0 := congrArg BitVec.toNat hz
    simp only [ScannerOk, hp, scanLen1_len, hn]
    exact ⟨hz.symm, hsum⟩
  · have hp : (scanLen1 b s).phase = .payload := if_neg fun h => hz (beq_iff_eq.1 h)
    have hn : 0 < (halfOf b (loByte s.len)).toNat := Nat.pos_of_ne_zero fun h => hz (BitVec.eq_of_toNat_eq h)
    simp only [ScannerOk, hp]
    exact ⟨hn, hsum⟩

theorem storePayload_scannerOk {s : State} (hmem : MemoryOk s) (hlt : s.cnt.toNat < s.len.toNat)
    (h : (s.cka, s.ckb) = cksum s.cfg.ckMod (frameBody s.cls s.id s.len (pbufBytes s.pbuf s.cnt.toNat))) (b : Byte) :
    ScannerOk (storePayload b s) := by
  have hsum : ((storePayload b s).cka, (storePayload b s).ckb) =
      cksum s.cfg.ckMod (frameBody s.cls s.id s.len (pbufBytes (storePayload b s).pbuf (s.cnt.toNat + 1))) := by
    have hbytes : pbufBytes (storePayload b s).pbuf (s.cnt.toNat + 1) = pbufBytes s.pbuf s.cnt.toNat ++ [b] :=
      pbufBytes_pbufWrite_succ hmem s.cnt.toNat b
    rw [hbytes, frameBody, ← List.append_assoc]
    exact sumByte_cksum h b
  have hcnt : (storePayload b s).cnt.toNat = s.cnt.toNat + 1 := toNat_cnt_succ hlt
  have hphase := storePayload_phase b s
  by_cases hlast : s.cnt.toNat + 1 = s.len.toNat
  · rw [if_pos hlast] at hphase
    rw [hlast] at hsum hcnt
    simp only [ScannerOk, hphase]
    exact ⟨BitVec.eq_of_toNat_eq hcnt, hsum⟩
  · rw [if_neg hlast] at hphase
    simp only [ScannerOk, hphase, hcnt]
    exact ⟨Nat.lt_of_le_of_ne hlt hlast, hsum⟩

/-! ### The invariant, event by event -/

/-- A meaning that answers keeps the invariant. -/
def KeepsInv (f : State → Res) : Prop := ∀ s t, BlockInv s → f s = .next t → BlockInv t

theorem KeepsInv.of_next {u : State → State} (hu : ∀ s, BlockInv s → BlockInv (u s)) : KeepsInv (fun s => .next (u s)) := by
  rintro s _ h ⟨⟩
  exact hu s h

/-- What is put out, and the registers that no rule reads, stand outside the invariant. -/
theorem BlockInv.putOut {l : List OutEvent} {s t : State} (h : BlockInv s) (hput : PutsOut l s t) : BlockInv t := by
  rw [hput]
  exact h

theorem scanByte_keepsInv (b : Byte) : KeepsInv (scanByte b) := by
  rintro s t ⟨hmem, htables, hfits, hscan⟩ h
  cases hp : s.phase with
  | hunt =>
    cases (scanByte_hunt hp b).symm.trans h
    refine ⟨hmem, htables, hfits, ?_⟩
    simp only [ScannerOk, scanHunt_phase]
    split_ifs <;> trivial
  | sync1 =>
    cases (scanByte_sync1 hp b).symm.trans h
    rcases scanSync1_cases b s with ⟨-, e⟩ | ⟨-, -, e⟩ | ⟨-, -, e⟩ <;> rw [e]
    · exact ⟨hmem, htables, hfits, rfl⟩
    · exact ⟨hmem, htables, hfits, trivial⟩
    · exact ⟨hmem, htables, hfits, trivial⟩
  | cls =>
    simp only [ScannerOk, hp] at hscan
    cases (scanByte_cls hp b).symm.trans h
    exact ⟨hmem, htables, hfits, sumByte_cksum (xs := []) hscan b⟩
  | id =>
    simp only [ScannerOk, hp] at hscan
    cases (scanByte_id hp b).symm.trans h
    exact ⟨hmem, htables, hfits, sumByte_cksum hscan b⟩
  | len0 =>
    simp only [ScannerOk, hp] at hscan
    cases (scanByte_len0 hp b).symm.trans h
    refine ⟨hmem, htables, hfits, ?_⟩
    simp only [ScannerOk, scanLen0_phase, scanLen0_len, loByte_halfOf]
    exact sumByte_cksum hscan b
  | len1 =>
    simp only [ScannerOk, hp] at hscan
    cases (scanByte_len1 hp b).symm.trans h
    exact ⟨hmem, htables, hfits, scanLen1_scannerOk hscan b⟩
  | payload =>
    simp only [ScannerOk, hp] at hscan
    obtain ⟨hlt, hsum⟩ := hscan
    have hroom := cnt_lt_pmax hfits hlt
    cases ((scanByte_payload hp b).trans (scanPayload_of_lt_pmax hroom b)).symm.trans h
    exact ⟨pbufWrite_wf hroom b hmem, htables, hfits, storePayload_scannerOk hmem hlt hsum b⟩
  | ck0 =>
    simp only [ScannerOk, hp] at hscan
    cases (scanByte_ck0 hp b).symm.trans h
    exact ⟨hmem, htables, hfits, hscan⟩
  | ck1 =>
    obtain ⟨l, hput⟩ := scanCk1_putsOut ((scanByte_ck1 hp b).symm.trans h)
    have hended : BlockInv { s with phase := .hunt } := ⟨hmem, htables, hfits, trivial⟩
    exact hended.putOut hput

theorem takeByte_keepsInv (b : Byte) : KeepsInv (takeByte b) := by
  intro s t hs h
  cases hm : s.mode with
  | run => exact scanByte_keepsInv b s t hs ((takeByte_run hm b).symm.trans h)
  | halt =>
    cases (takeByte_halt hm b).symm.trans h
    exact hs

theorem takeEoc_keepsInv : KeepsInv (fun s => .next (takeEoc s)) :=
  .of_next fun s hs => by
    rcases takeEoc_cases s with ⟨e, -⟩ | ⟨e, -⟩ <;> rw [e]
    · exact hs.putOut (raiseErr_putsOut _ s)
    · exact hs

theorem sendFrame_keepsInv (c i : Config → Byte) (p : Config → List Byte) :
    KeepsInv (fun s => .next (sendFrame (c s.cfg) (i s.cfg) (p s.cfg) s)) :=
  .of_next fun s hs => by
    rcases sendFrame_cases (c s.cfg) (i s.cfg) (p s.cfg) s with ⟨e, -⟩ | ⟨e, -⟩ <;> rw [e]
    · exact hs.putOut (emit_putsOut _ s)
    · exact hs

/-- `RST` empties `PBUF`, hunts, and runs only under tables it found valid. -/
theorem execRst_keepsInv : KeepsInv execRst := by
  rintro s t ⟨-, -, ⟨-, hfits⟩, -⟩ h
  rw [execRst] at h
  split_ifs at h with hv <;> cases h
  · exact ⟨rfl, fun _ => hv, ⟨hfits, hfits⟩, trivial⟩
  · have hhalt : BlockInv { resetRegs s with mode := .halt } := ⟨rfl, nofun, ⟨hfits, hfits⟩, trivial⟩
    exact hhalt.putOut (raiseErr_putsOut _ _)

theorem keepsInv_compositional : Compositional KeepsInv where
  idle := .of_next (u := id) fun _ => id
  seq hf hg s u hs h := by
    obtain ⟨t, hft, hgt⟩ := andThen_eq_next.1 h
    exact hg t u (hf s t hs hft) hgt
  byte := takeByte_keepsInv
  eoc := takeEoc_keepsInv
  rst := execRst_keepsInv
  send := sendFrame_keepsInv

/-- Settles O47: the input queue stands outside the invariant, and every instruction and every run of bytes keeps it. -/
theorem everyStepKeepsTheInvariant : Obligations.EveryStepKeepsTheInvariant := by
  intro s t hs h
  cases hq : s.inq with
  | nil =>
    cases (step_idle hq).symm.trans h
    exact hs
  | cons w rest =>
    have hs' : BlockInv { s with inq := rest } := hs
    cases hd : decode w with
    | ok i => exact keepsInv_compositional.exec i _ t hs' ((step_decoded hq hd).symm.trans h)
    | error e => exact keepsInv_compositional.takeUndecoded w _ t hs' ((step_undecoded hq hd).symm.trans h)

/-! ### The phase table -/

/-- Settles O20, row by row: every rule but that of `CK1` is silent, and every one but that of `PAYLOAD` keeps `PBUF`. -/
theorem byteFollowsThePhaseTable : Obligations.ByteFollowsThePhaseTable := by
  intro s d hinv hm
  obtain ⟨t, ht⟩ := takeByte_answers hinv d
  refine ⟨t, ht, ?_⟩
  rw [takeByte_run hm] at ht
  cases hp : s.phase with
  | hunt | cls | id | len0 | ck0 =>
    simp only [scanByte, hp] at ht
    cases ht
    exact ⟨rfl, fun _ => ⟨rfl, rfl, rfl⟩, fun _ _ => rfl⟩
  | sync1 =>
    cases (scanByte_sync1 hp d).symm.trans ht
    simp only [scanSync1]
    split_ifs <;> exact ⟨rfl, fun _ => ⟨rfl, rfl, rfl⟩, fun _ _ => rfl⟩
  | len1 =>
    cases (scanByte_len1 hp d).symm.trans ht
    refine ⟨?_, fun _ => ⟨rfl, rfl, rfl⟩, fun _ _ => rfl⟩
    simp only [scanLen1_phase, lenZero_iff]
  | payload =>
    obtain ⟨-, -, hfits, hscan⟩ := hinv
    simp only [ScannerOk, hp] at hscan
    obtain ⟨hlt, -⟩ := hscan
    have hroom := cnt_lt_pmax hfits hlt
    cases ((scanByte_payload hp d).trans (scanPayload_of_lt_pmax hroom d)).symm.trans ht
    exact ⟨storePayload_phase d s, fun _ => ⟨rfl, rfl, rfl⟩, fun h => absurd rfl h⟩
  | ck1 =>
    obtain ⟨l, hput⟩ := scanCk1_putsOut ((scanByte_ck1 hp d).symm.trans ht)
    rw [hput]
    exact ⟨rfl, fun h => absurd rfl h, fun _ _ => rfl⟩

end Sys2Proof.Machine
end

section
/-! PROOF. The checksum pair modulo 256 is a pair of sums, so one changed byte changes it (41_checksum R160, R161, R164). -/

namespace Sys2Proof.Machine

/-- Settles O27: 8-bit sums wrap at the modulus. -/
theorem checksumUpdateAddsModulo256 : Obligations.ChecksumUpdateAddsModulo256 := by
  intro a b x
  have hwrap (n : Nat) : BitVec.ofNat 8 (n % 256) = BitVec.ofNat 8 n := BitVec.eq_of_toNat_eq (Nat.mod_mod n 256)
  simp only [ck, hwrap, BitVec.ofNat_add, BitVec.ofNat_toNat, BitVec.setWidth_eq]

/-- The sum of a byte sequence (41_checksum R161). -/
def byteSum (s : List Byte) : Nat := (s.map (fun x => x.toNat)).sum

/-- The sum of a byte sequence in which byte `j` of `m` counts `m - j` times (41_checksum R161). -/
def weightedSum (s : List Byte) : Nat := (s.zipIdx.map (fun x => (s.length - x.2) * x.1.toNat)).sum

theorem byteSum_cons (x : Byte) (s : List Byte) : byteSum (x :: s) = x.toNat + byteSum s := rfl

theorem weightedSum_cons (x : Byte) (s : List Byte) :
    weightedSum (x :: s) = (s.length + 1) * x.toNat + weightedSum s := by
  simp [weightedSum, List.zipIdx_succ, Function.comp_def]

/-- The closed form of a checksum continued from `(a, b)`: `a` counts in the second sum once a byte. -/
theorem cksumFrom_256 (s : List Byte) (a b : Byte) :
    cksumFrom 256 (a, b) s =
      (a + BitVec.ofNat 8 (byteSum s), b + BitVec.ofNat 8 s.length * a + BitVec.ofNat 8 (weightedSum s)) := by
  induction s generalizing a b with
  | nil => simp [cksumFrom, byteSum, weightedSum]
  | cons x s ih =>
    rw [cksumFrom, checksumUpdateAddsModulo256, ih, byteSum_cons, weightedSum_cons]
    simp only [List.length_cons, BitVec.ofNat_add, BitVec.ofNat_mul, BitVec.ofNat_toNat, BitVec.setWidth_eq,
      BitVec.add_mul, BitVec.one_mul]
    refine Prod.ext ?_ ?_ <;> ring

theorem cksum_256 (s : List Byte) :
    cksum 256 s = (BitVec.ofNat 8 (byteSum s), BitVec.ofNat 8 (weightedSum s)) := by
  simp [cksum, cksumFrom_256]

/-- Settles O28: both sums are those of the closed form, taken in 8 bits. -/
theorem checksumClosedForm : Obligations.ChecksumClosedForm := by
  refine ⟨rfl, fun s => ?_⟩
  rw [cksum_256]
  exact ⟨BitVec.toNat_ofNat _ _, BitVec.toNat_ofNat _ _⟩

/-- A byte replaced at one place moves the sum by the difference. -/
theorem byteSum_set {s : List Byte} {k : Nat} (hk : k < s.length) (x : Byte) :
    byteSum (s.set k x) + s[k].toNat = byteSum s + x.toNat := by
  induction s generalizing k with
  | nil => nomatch hk
  | cons y s ih =>
    cases k with
    | zero =>
      simp only [List.set_cons_zero, List.getElem_cons_zero, byteSum_cons]
      omega
    | succ k =>
      have := ih (Nat.lt_of_succ_lt_succ hk)
      simp only [List.set_cons_succ, List.getElem_cons_succ, byteSum_cons]
      omega

/-- Two values of a byte never differ by a multiple of 256, so the first sum tells them apart. -/
theorem cksum_set_ne {s : List Byte} {k : Nat} {x : Byte} (hk : k < s.length) (hx : s[k]? ≠ some x) :
    cksum 256 (s.set k x) ≠ cksum 256 s := by
  intro h
  rw [cksum_256, cksum_256] at h
  have hsum : byteSum (s.set k x) % 256 = byteSum s % 256 := congrArg (fun ab => ab.1.toNat) h
  have hset := byteSum_set hk x
  have := x.isLt
  have := s[k].isLt
  have hval : s[k].toNat = x.toNat := by omega
  exact hx (List.getElem?_eq_some_iff.2 ⟨hk, BitVec.eq_of_toNat_eq hval⟩)

theorem cksum_frameBody_set_ne {p : List Byte} {k : Nat} {x : Byte} (hk : k < p.length) (hx : p[k]? ≠ some x)
    (c i : Byte) (n : Half) : cksum 256 (frameBody c i n (p.set k x)) ≠ cksum 256 (frameBody c i n p) :=
  cksum_set_ne (s := frameBody c i n p) (k := k + 4) (Nat.add_lt_add_right hk 4) hx

end Sys2Proof.Machine
end

section
/-! PROOF. A frame with the right checksum pair is put out raw and dispatched, one with another pair is a `ChecksumError`
(41_checksum R163, R164, R166). -/

namespace Sys2Proof.Machine

/-- A frame with the checksum pair of its body, under any configuration with valid tables: two events, of which none is a
`ChecksumError`. -/
theorem feed_validFrame {s : State} {p : List Byte} {c i a b : Byte} (hm : s.mode = .run) (hp : s.phase = .hunt)
    (htables : tablesValid s.cfg = true) (hmem : MemoryOk s) (hlen : p.length ≤ 65535) (hfit : p.length ≤ s.cfg.pmax)
    (hgood : (a, b) = cksum s.cfg.ckMod (frameBody c i (BitVec.ofNat 16 p.length) p)) :
    ∃ (t : State) (e : OutEvent),
      feed (frameBytes s.cfg.preamble0 s.cfg.preamble1 c i (BitVec.ofNat 16 p.length) p a b) s = .next t ∧
      t.out = s.out ++
        [.rawframe (frameBytes s.cfg.preamble0 s.cfg.preamble1 c i (BitVec.ofNat 16 p.length) p a b), e] ∧
      ((∃ r, e = .record r) ∨ e = .err (.truncatedPayload c i (BitVec.ofNat 16 p.length)) ∨
        e = .err (.groupSizeMismatch c i (BitVec.ofNat 16 p.length))) := by
  have hfeed := (feed_body hm hp hlen hfit c i a b).trans (feed_checksum hm hmem hlen hfit c i a b)
  rw [if_pos hgood] at hfeed
  obtain ⟨t, ht⟩ := dispatch_answers (s := emit _ (frameHeard c i p a s)) htables c i (BitVec.ofNat 16 p.length) p
  obtain ⟨e, hput, hkind⟩ := dispatch_putsOut ht
  have hall := (emit_putsOut _ (frameHeard c i p a s)).trans hput
  exact ⟨t, e, hfeed.trans ht, congrArg State.out hall, hkind⟩

/-- Settles O42: `BuildFrame` ends its frame with the checksum pair of the body. -/
theorem builtFramesAreValid : Obligations.BuiltFramesAreValid :=
  fun _ _ _ _ hm hp htables hmem hlen hfit => feed_validFrame hm hp htables hmem hlen hfit rfl

/-- A frame whose pair is not the computed one puts out the `ChecksumError` only. -/
theorem feed_badChecksum {s : State} {c i a b ca cb : Byte} {p : List Byte} (hs : Hunting s) (hlen : p.length ≤ 65535)
    (hgood : GoodChecksum c i p ca cb) (hne : (a, b) ≠ (ca, cb)) :
    ∃ t, feed (tableFrame c i p a b) s = .next t ∧
      t.out = s.out ++ [.err (.checksumError c i (BitVec.ofNat 16 p.length) a b ca cb)] := by
  obtain ⟨t, hexec, -, hout, -, -⟩ := badChecksumDiscardsTheFrame s c i p a b ca cb hs hlen hgood hne
  exact ⟨t, (exec_frameRow hlen c i a b s).symm.trans hexec, hout⟩

theorem defaultConfig_tablesValid : tablesValid defaultConfig = true := by decide +kernel

/-- Settles O29: a changed payload byte changes the pair computed, a changed checksum byte the pair received. -/
theorem checksumCatchesSingleByteErrors : Obligations.ChecksumCatchesSingleByteErrors := by
  intro s c i a b p hs hlen hgood
  refine ⟨?_, fun k x hk hx => ?_, fun a' b' hne => feed_badChecksum hs hlen hgood hne⟩
  · obtain ⟨hm, hp, hc, hmem⟩ := hs
    have htables : tablesValid s.cfg = true := by rw [hc]; exact defaultConfig_tablesValid
    have hfit : p.length ≤ s.cfg.pmax := by rw [hc]; exact hlen
    have hsum : (a, b) = cksum s.cfg.ckMod (frameBody c i (BitVec.ofNat 16 p.length) p) := by rw [hc]; exact hgood
    obtain ⟨t, e, hfeed, hout, -⟩ := feed_validFrame hm hp htables hmem hlen hfit hsum
    rw [hc] at hfeed hout
    exact ⟨t, e, hfeed, hout⟩
  · have hset : (p.set k x).length = p.length := List.length_set
    have hchanged : (a, b) ≠ cksum 256 (frameBody c i (BitVec.ofNat 16 (p.set k x).length) (p.set k x)) := by
      rw [hset]
      exact fun h => cksum_frameBody_set_ne hk hx c i _ (h.symm.trans hgood)
    obtain ⟨t, hfeed, hout⟩ := feed_badChecksum hs (hset.trans_le hlen) rfl hchanged
    rw [hset] at hout
    exact ⟨t, _, _, hfeed, hout⟩

end Sys2Proof.Machine
end

section
/-! PROOF. Table validity is the eight conditions, and under it a lookup finds the one row of an identity
(42_dispatch R173, R176). -/

namespace Sys2Proof.Machine

/-! ### The Boolean checks as conditions -/

theorem allDistinct_iff {α : Type} [BEq α] [LawfulBEq α] (l : List α) : allDistinct l = true ↔ l.Nodup := by
  induction l with
  | nil => simp [allDistinct]
  | cons a l ih => simp [allDistinct, ih]

/-- Neighbours in order are enough, since the order of offsets is transitive. -/
theorem offsetsRise_iff (fs : List Field) :
    offsetsRise fs = true ↔ fs.Pairwise (fun x y => fieldOff x ≤ fieldOff y) := by
  have hchain : offsetsRise fs = true ↔ fs.IsChain (fun x y => fieldOff x ≤ fieldOff y) := by
    induction fs with
    | nil => simp [offsetsRise]
    | cons f fs ih =>
      cases fs with
      | nil => simp [offsetsRise]
      | cons g fs => simp only [offsetsRise, Bool.and_eq_true, decide_eq_true_eq, ih, List.isChain_cons_cons]
  have : IsTrans Field (fun x y => fieldOff x ≤ fieldOff y) := ⟨fun _ _ _ => Nat.le_trans⟩
  exact hchain.trans List.isChain_iff_pairwise

theorem optionalsLast_iff (fs : List Field) :
    optionalsLast fs = true ↔ fs.Pairwise (fun x y => fieldOpt x = true → fieldOpt y = true) := by
  induction fs with
  | nil => simp [optionalsLast]
  | cons f fs ih =>
    cases hopt : fieldOpt f <;> simp [optionalsLast, hopt, ih]

section
variable (cfg : Config)

theorem fieldValid_num (dst : Fin 32) (off : Nat) (ty : NumTy) (k : Nat) (unit : FieldUnit) (opt : Bool) (dflt : Word) :
    fieldValid cfg (.num dst off ty k unit opt dflt) = true ↔
      off + numSize ty ≤ 65535 ∧ k ≤ cfg.kmax ∧ dst.val < cfg.nf := by
  simp only [fieldValid, Bool.and_eq_true, decide_eq_true_eq, and_assoc]
  rfl

theorem fieldValid_text (dst : Fin 2) (off len k : Nat) (unit : FieldUnit) (opt : Bool) (dflt : Word) :
    fieldValid cfg (.text dst off len k unit opt dflt) = true ↔
      off + len ≤ 65535 ∧ k ≤ cfg.kmax ∧ dst.val < cfg.nt ∧ 1 ≤ len ∧ len ≤ cfg.tmax := by
  simp only [fieldValid, Bool.and_eq_true, decide_eq_true_eq, and_assoc]
  rfl

theorem isCountField_iff (q : Fin 32) (f : Field) :
    isCountField q f = true ↔ ∃ off unit dflt, f = .num q off .u1 0 unit false dflt := by
  cases f with
  | num dst off ty k unit opt dflt =>
    simp only [isCountField, Bool.and_eq_true, beq_iff_eq, Bool.not_eq_true']
    constructor
    · rintro ⟨⟨⟨rfl, rfl⟩, rfl⟩, rfl⟩
      exact ⟨off, unit, dflt, rfl⟩
    · rintro ⟨off, unit, dflt, ⟨⟩⟩
      exact ⟨⟨⟨rfl, rfl⟩, rfl⟩, rfl⟩
  | text => simp [isCountField]

theorem any_isCountField_iff (q : Fin 32) (fs : List Field) :
    fs.any (isCountField q) = true ↔ ∃ off unit dflt, Field.num q off .u1 0 unit false dflt ∈ fs := by
  simp only [List.any_eq_true, isCountField_iff]
  constructor
  · rintro ⟨_, hf, off, unit, dflt, rfl⟩
    exact ⟨off, unit, dflt, hf⟩
  · rintro ⟨off, unit, dflt, hf⟩
    exact ⟨_, hf, off, unit, dflt, rfl⟩

theorem groupValid_iff (fs : List Field) (g : Group) :
    groupValid cfg fs g = true ↔
      (∃ off unit dflt, Field.num g.cnt off .u1 0 unit false dflt ∈ fs) ∧ 1 ≤ g.item ∧
        (∀ f ∈ fs, fieldOff f + fieldSize f ≤ g.hdr ∧ fieldOpt f = false) ∧
        (∀ c ∈ g.cols, c.col.val < cfg.gcols ∧ c.ioff + numSize c.ty ≤ g.item) ∧ (g.cols.map (·.col)).Nodup := by
  simp only [groupValid, Bool.and_eq_true, any_isCountField_iff, allDistinct_iff, List.all_eq_true, decide_eq_true_eq,
    Bool.not_eq_true', and_assoc]

theorem layoutValid_iff (l : Layout) :
    layoutValid cfg l = true ↔
      (l.fields.map fieldDst).Nodup ∧ (∀ f ∈ l.fields, fieldValid cfg f = true) ∧
        l.fields.Pairwise (fun x y => fieldOff x ≤ fieldOff y) ∧
        l.fields.Pairwise (fun x y => fieldOpt x = true → fieldOpt y = true) ∧
        ∀ g, l.group = some g → groupValid cfg l.fields g = true := by
  cases hg : l.group <;>
    simp [layoutValid, hg, allDistinct_iff, offsetsRise_iff, optionalsLast_iff, and_assoc]

theorem idtValid_iff :
    idtValid cfg = true ↔
      cfg.idt.Pairwise (fun x y => ¬ (x.cls = y.cls ∧ x.id = y.id)) ∧
        ∀ row ∈ cfg.idt, row.tag ≤ 7 ∧ (row.tag ≠ 0 → ∃ l, layoutOf cfg row.tag = some l) := by
  simp only [idtValid, Bool.and_eq_true, allDistinct_iff, List.Nodup, List.pairwise_map, ne_eq, Prod.mk.injEq,
    List.all_eq_true, decide_eq_true_eq, Bool.or_eq_true, beq_iff_eq, Option.isSome_iff_exists, or_iff_not_imp_left]

theorem sizesValid_iff : sizesValid cfg = true ↔ cfg.nf ≤ 32 ∧ cfg.nt ≤ 2 ∧ cfg.gcols ≤ 4 ∧ 255 ≤ cfg.gmax := by
  simp only [sizesValid, Bool.and_eq_true, decide_eq_true_eq, and_assoc]

theorem tablesValid_iff :
    tablesValid cfg = true ↔
      idtValid cfg = true ∧ (∀ r ∈ cfg.layouts, layoutValid cfg r.layout = true) ∧ sizesValid cfg = true := by
  simp only [tablesValid, Bool.and_eq_true, List.all_eq_true, and_assoc]

end

/-- Settles O53: each check of `tablesValid` is the condition it stands for, a field's by its kind. -/
theorem validityIsTheEightConditions : Obligations.ValidityIsTheEightConditions := by
  intro cfg
  rw [tablesValid_iff, idtValid_iff, sizesValid_iff, and_assoc]
  refine and_congr_right' (and_congr_right' (and_congr_left' (forall₂_congr fun lr _ => ?_)))
  simp only [layoutValid_iff, groupValid_iff]
  refine and_congr_right' (and_congr_left' (forall₂_congr fun f _ => ?_))
  cases f with
  | num => exact fieldValid_num ..
  | text => exact fieldValid_text ..

/-! ### Lookup -/

theorem lookupFrom_eq_none (c i : Byte) (k : Nat) (rows : List IdRow) :
    lookupFrom c i k rows = none ↔ ∀ row ∈ rows, ¬ (row.cls = c ∧ row.id = i) := by
  induction rows generalizing k with
  | nil => simp [lookupFrom]
  | cons x xs ih =>
    rw [lookupFrom, List.forall_mem_cons, ← ih (k + 1)]
    split_ifs with hx <;> simp [hx]

theorem lookup_eq_none (cfg : Config) (c i : Byte) :
    lookup cfg c i = none ↔ ∀ row ∈ cfg.idt, ¬ (row.cls = c ∧ row.id = i) :=
  lookupFrom_eq_none c i 0 cfg.idt

theorem lookup_found {cfg : Config} {c i : Byte} {r : Nat} {row : IdRow} (h : lookup cfg c i = some (r, row)) :
    cfg.idt[r]? = some row ∧ row.cls = c ∧ row.id = i := by
  obtain ⟨-, hrow, hident⟩ := lookupFrom_found h
  exact ⟨hrow, hident⟩

/-- Under valid tables the rows of one identity are one row. -/
theorem row_unique {cfg : Config} (hv : tablesValid cfg = true) {r r' : Nat} {row row' : IdRow}
    (h : cfg.idt[r]? = some row) (h' : cfg.idt[r']? = some row') (hcls : row.cls = row'.cls) (hid : row.id = row'.id) :
    r = r' := by
  obtain ⟨hidt, -⟩ := (tablesValid_iff cfg).1 hv
  obtain ⟨hdistinct, -⟩ := (idtValid_iff cfg).1 hidt
  obtain ⟨hr, rfl⟩ := List.getElem?_eq_some_iff.1 h
  obtain ⟨hr', rfl⟩ := List.getElem?_eq_some_iff.1 h'
  rcases lt_trichotomy r r' with hlt | heq | hgt
  · exact absurd ⟨hcls, hid⟩ (List.pairwise_iff_getElem.1 hdistinct r r' hr hr' hlt)
  · exact heq
  · exact absurd ⟨hcls.symm, hid.symm⟩ (List.pairwise_iff_getElem.1 hdistinct r' r hr' hr hgt)

/-- Under valid tables a row of the identity table is what a lookup of its identity finds. -/
theorem lookup_of_row {cfg : Config} (hv : tablesValid cfg = true) {r : Nat} {row : IdRow} (h : cfg.idt[r]? = some row) :
    lookup cfg row.cls row.id = some (r, row) := by
  cases hl : lookup cfg row.cls row.id with
  | none => exact absurd ⟨rfl, rfl⟩ ((lookup_eq_none cfg _ _).1 hl row (List.mem_of_getElem? h))
  | some found =>
    obtain ⟨r', row'⟩ := found
    obtain ⟨h', hcls, hid⟩ := lookup_found hl
    obtain rfl := row_unique hv h h' hcls.symm hid.symm
    cases h.symm.trans h'
    rfl

/-- Settles O54: a lookup answers a row of the identity, and there is only one. -/
theorem lookupFindsExactlyTheMatchingRow : Obligations.LookupFindsExactlyTheMatchingRow := by
  refine fun cfg c i hv => ⟨fun r row => ⟨lookup_found, ?_⟩, lookup_eq_none cfg c i⟩
  rintro ⟨h, rfl, rfl⟩
  exact lookup_of_row hv h

end Sys2Proof.Machine
end

section
/-! PROOF. Dispatch: what an unknown identity and a row of tag 0 deliver, and that the frame and the configuration fix the
result (42_dispatch R174, R175, R180). -/

namespace Sys2Proof.Machine

theorem dispatch_of_unknown {s : State} {c i : Byte} (h : lookup s.cfg c i = none) (n : Half) (p : List Byte) :
    dispatch c i n p s = .next (deliverRaw c i n p none s) := by
  simp only [dispatch, h]

theorem dispatch_of_tag_zero {s : State} {c i : Byte} {r : Nat} {row : IdRow} (h : lookup s.cfg c i = some (r, row))
    (ht : row.tag = 0) (n : Half) (p : List Byte) : dispatch c i n p s = .next (deliverRaw c i n p (some r) s) := by
  simp only [dispatch, h, if_pos ht]

/-- A valid frame arrived in phase `HUNT` and was delivered raw under row `name` or none: `RAWFRAME` and then one
`RawRecord`; the registers `F`, `G` and `T` and the error registers are as they were (42_dispatch R174, R175; log 10). -/
def DeliveredRaw (c i : Byte) (p : List Byte) (a b : Byte) (name : Option Nat) (s t : State) : Prop :=
  FrameTaken c i p a s t ∧
    t.out = s.out ++ [.rawframe (tableFrame c i p a b), .record (.raw c i (BitVec.ofNat 16 p.length) name p)] ∧
    t.err = s.err ∧
    t.record =
      { s.record with
        tag := 0, cls := c, id := i, len := BitVec.ofNat 16 p.length, name := name, fvalid := 0, fpresent := 0, gcnt := 0,
        tvalid := 0, ackFound := t.record.ackFound, ackName := t.record.ackName }

/-- A raw delivery leaves the scanner as the frame left it. -/
theorem deliverRaw_of_taken {c i a b : Byte} {p : List Byte} {s u : State} (htaken : FrameTaken c i p a s u)
    (hrecord : u.record = s.record) (herr : u.err = s.err) (hout : u.out = s.out) (name : Option Nat) :
    DeliveredRaw c i p a b name s
      (deliverRaw c i (BitVec.ofNat 16 p.length) p name (emit (.rawframe (tableFrame c i p a b)) u)) := by
  refine ⟨htaken, ?_, herr, ?_⟩
  · rw [deliverRaw_out, emit_out, hout, List.append_assoc]
    rfl
  · rw [← hrecord]
    rfl

/-- A frame of the table's preamble, with the checksum pair of its body, that the configuration in force dispatches raw. -/
theorem exec_frameRow_raw {s : State} {c i a b : Byte} {p : List Byte} {name : Option Nat} (hm : s.mode = .run)
    (hp : s.phase = .hunt) (hpre0 : s.cfg.preamble0 = 0xB5) (hpre1 : s.cfg.preamble1 = 0x62) (hmem : MemoryOk s)
    (hlen : p.length ≤ 65535) (hfit : p.length ≤ s.cfg.pmax)
    (hgood : (a, b) = cksum s.cfg.ckMod (frameBody c i (BitVec.ofNat 16 p.length) p))
    (hraw : ∀ u : State, u.cfg = s.cfg →
      dispatch c i (BitVec.ofNat 16 p.length) p u = .next (deliverRaw c i (BitVec.ofNat 16 p.length) p name u)) :
    ∃ t, exec (frameRow c i p a b) s = .next t ∧ DeliveredRaw c i p a b name s t := by
  obtain ⟨u, htaken, hrecord, herr, hout, -, hfeed⟩ :=
    frameReceptionIsCheckThenDispatch s c i a b p hm hp hmem hlen hfit
  have ⟨_, _, _, _, _, _, _, _, _, hcfg, _⟩ := htaken
  rw [if_pos hgood, hpre0, hpre1, hraw (emit _ u) hcfg] at hfeed
  exact ⟨_, (exec_frameRow hlen c i a b s).trans hfeed, deliverRaw_of_taken htaken hrecord herr hout name⟩

theorem namedIdentity_of_mem_defaultIdt : ∀ row ∈ defaultIdt, namedIdentity row.cls row.id = true := by decide

/-- The default identity table holds no other identity than the seven named ones (42_dispatch R172). -/
theorem lookup_defaultConfig_of_unnamed {c i : Byte} (h : namedIdentity c i = false) : lookup defaultConfig c i = none := by
  rw [lookup_eq_none]
  rintro row hrow ⟨rfl, rfl⟩
  cases h.symm.trans (namedIdentity_of_mem_defaultIdt row hrow)

/-- Settles O38: the default table holds no other identity than the named ones, so the frame is dispatched raw. -/
theorem rawDeliversThePayloadUnchanged : Obligations.RawDeliversThePayloadUnchanged := by
  rintro s c i p a b ⟨hm, hp, hc, hmem⟩ hother hlen hgood
  rw [← frameRow_raw hother]
  refine exec_frameRow_raw hm hp (by rw [hc]; rfl) (by rw [hc]; rfl) hmem hlen (by rw [hc]; exact hlen)
    (by rw [hc]; exact hgood) fun u hu => dispatch_of_unknown ?_ _ _
  rw [hu, hc]
  exact lookup_defaultConfig_of_unnamed hother

/-- Settles O59: under valid tables the lookup finds the row, and its tag 0 dispatches the frame raw under its number. -/
theorem namedRawRowsKeepTheirName : Obligations.NamedRawRowsKeepTheirName := by
  rintro s _ _ r row p a b hm hp hpre0 hpre1 hv hmem hlen hfit hrow rfl rfl htag hgood
  refine exec_frameRow_raw hm hp hpre0 hpre1 hmem hlen hfit hgood fun u hu => dispatch_of_tag_zero ?_ htag _ _
  rw [hu]
  exact lookup_of_row hv hrow

/-- Settles O60: the configuration and the frame decide which delivery is made, and with it the event put out. -/
theorem equalFramesGiveEqualResults : Obligations.EqualFramesGiveEqualResults := by
  intro c i n p s₁ s₂ t₁ hc h
  rcases dispatch_decided s₁.cfg c i n p with ⟨u, hu, hd⟩ | hd
  · obtain ⟨e, h₁, h₂⟩ := hu.putsOut hc
    cases (hd s₁ rfl).symm.trans h
    exact ⟨[e], u s₂, congrArg State.out h₁, hd s₂ hc.symm, congrArg State.out h₂⟩
  · cases (hd s₁ rfl).symm.trans h

end Sys2Proof.Machine
end

section
/-! PROOF. Decode failures: a payload that ends inside a mandatory field, and one whose length does not fit its group
(43_field_decoder R187, R195, R199). -/

namespace Sys2Proof.Machine

/-! ### From the layout to the failure -/

theorem decodePayload_truncated {cfg : Config} {l : Layout} {f : Field} {p : List Byte} (hf : f ∈ l.fields)
    (hopt : fieldOpt f = false) (hshort : p.length < fieldOff f + fieldSize f) :
    decodePayload cfg l p = .error .truncated := by
  rw [decodePayload, decodeFields_short cfg.textStrip p l.fields ⟨f, hf, hopt, by omega⟩]

theorem decodePayload_groupSize {cfg : Config} {l : Layout} {g : Group} {p : List Byte} {fields : List FieldVal}
    {texts : List TextVal} (hfields : decodeFields cfg.textStrip p l.fields = some (fields, texts)) (hg : l.group = some g)
    (hsize : p.length ≠ g.hdr + groupCount g fields * g.item) : decodePayload cfg l p = .error .groupSize := by
  simp only [decodePayload, hfields, hg, if_neg hsize]

theorem layoutOf_of_usable {cfg : Config} {t : Nat} {v : Variant} {l : Layout} (h : usableLayout cfg t = some (v, l)) :
    layoutOf cfg t = some l := by
  simp only [usableLayout] at h
  split at h
  next hlay =>
    split_ifs at h
    cases h
    exact hlay
  next => cases h

/-- A row of a valid identity table whose layout cannot decode the payload reports why. -/
theorem dispatch_of_decode_error {s : State} {row : IdRow} {l : Layout} {p : List Byte} {e : DecodeFail}
    (hv : tablesValid s.cfg = true) (hrow : row ∈ s.cfg.idt) (ht : row.tag ≠ 0) (hl : layoutOf s.cfg row.tag = some l)
    (he : decodePayload s.cfg l p = .error e) (n : Half) :
    dispatch row.cls row.id n p s = .next (deliverFailure e row.cls row.id n s) := by
  obtain ⟨r, hr⟩ := List.mem_iff_getElem?.1 hrow
  have hfound := lookup_of_row hv hr
  obtain ⟨v, l', hu⟩ := usableLayout_of_valid hv hfound ht
  obtain rfl : l = l' := Option.some.inj (hl.symm.trans (layoutOf_of_usable hu))
  simp only [dispatch, hfound, if_neg ht, hu, he]

/-! ### Frames of the default configuration -/

/-- A frame with the checksum pair of its body is put out raw and dispatched (40_frame_scanner R139). -/
theorem exec_frameRow_good {s : State} {c i a b : Byte} {p : List Byte} (hs : Hunting s) (hlen : p.length ≤ 65535)
    (hgood : GoodChecksum c i p a b) :
    ∃ u, FrameTaken c i p a s u ∧ u.cfg = defaultConfig ∧ u.err = s.err ∧ u.out = s.out ∧
      exec (frameRow c i p a b) s =
        dispatch c i (BitVec.ofNat 16 p.length) p (emit (.rawframe (tableFrame c i p a b)) u) := by
  obtain ⟨hm, hp, hc, hmem⟩ := hs
  obtain ⟨u, htaken, -, herr, hout, -, hfeed⟩ :=
    frameReceptionIsCheckThenDispatch s c i a b p hm hp hmem hlen (by rw [hc]; exact hlen)
  have ⟨_, _, _, _, _, _, _, _, _, hcfg, _⟩ := htaken
  rw [hc] at hfeed
  exact ⟨u, htaken, hcfg.trans hc, herr, hout, (exec_frameRow hlen c i a b s).trans (hfeed.trans (if_pos hgood))⟩

/-- A valid frame of a known identity that its layout cannot decode: `RAWFRAME`, the error, and its code and info registers
(43_field_decoder R199, 60_exceptions R255). -/
theorem exec_frameRow_decode_error {s : State} {row : IdRow} {l : Layout} {p : List Byte} {a b : Byte} {e : DecodeFail}
    (hs : Hunting s) (hrow : row ∈ defaultIdt) (ht : row.tag ≠ 0) (hl : layoutOf defaultConfig row.tag = some l)
    (he : decodePayload defaultConfig l p = .error e) (hlen : p.length ≤ 65535)
    (hgood : GoodChecksum row.cls row.id p a b) :
    ∃ t, exec (frameRow row.cls row.id p a b) s = .next t ∧ FrameTaken row.cls row.id p a s t ∧
      t.out = s.out ++ [.rawframe (tableFrame row.cls row.id p a b),
        .err (failInfo e row.cls row.id (BitVec.ofNat 16 p.length))] ∧
      t.err.code = errCode (failInfo e row.cls row.id (BitVec.ofNat 16 p.length)) ∧
      t.err.cls = row.cls ∧ t.err.id = row.id ∧ t.err.len = BitVec.ofNat 16 p.length := by
  obtain ⟨u, htaken, hcfg, -, hout, hexec⟩ := exec_frameRow_good hs hlen hgood
  have hdispatch := dispatch_of_decode_error (s := emit (.rawframe (tableFrame row.cls row.id p a b)) u)
    (by rw [emit_cfg, hcfg]; exact defaultConfig_tablesValid) (by rw [emit_cfg, hcfg]; exact hrow) ht
    (by rw [emit_cfg, hcfg]; exact hl) (by rw [emit_cfg, hcfg]; exact he) (BitVec.ofNat 16 p.length)
  refine ⟨_, hexec.trans hdispatch, htaken, ?_, ?_⟩
  · rw [deliverFailure_out, emit_out, hout, List.append_assoc]
    rfl
  · cases e <;> exact ⟨rfl, rfl, rfl, rfl⟩

/-! ### Short payloads -/

/-- The known identities and the bytes their layouts' mandatory fields need (44_messages R210 to R220). -/
def mandatoryLengths : List (Byte × Byte × Nat) :=
  [(0x01, 0x07, 78), (0x01, 0x30, 6), (0x06, 0x00, 18), (0x06, 0x01, 8), (0x0A, 0x04, 40), (0x05, 0x01, 2), (0x05, 0x00, 2)]

/-- In the default tables each of these lengths is where a mandatory field of the identity's layout ends. -/
theorem mandatoryLengths_field : ∀ x ∈ mandatoryLengths, x.2.2 ≤ 65535 ∧
    ∃ row ∈ defaultIdt, ∃ lr ∈ defaultLayouts, ∃ f ∈ lr.layout.fields, row.cls = x.1 ∧ row.id = x.2.1 ∧ row.tag ≠ 0 ∧
      layoutOf defaultConfig row.tag = some lr.layout ∧ fieldOpt f = false ∧ fieldOff f + fieldSize f = x.2.2 := by
  decide +kernel

/-- Settles O40: the mandatory field that ends at the length needed is out of bounds. -/
theorem shortFramesAreTruncated : Obligations.ShortFramesAreTruncated := by
  intro s c i m p a b hs hx hshort hgood
  obtain ⟨hm, row, hrow, lr, -, f, hf, rfl, rfl, ht, hl, hopt, rfl⟩ := mandatoryLengths_field _ hx
  exact exec_frameRow_decode_error hs hrow ht hl (decodePayload_truncated hf hopt hshort) (hshort.le.trans hm) hgood

/-! ### Groups of the wrong size -/

theorem decodeFields_satelliteInfo {p : List Byte} (h : 6 ≤ p.length) (st : TextStrip) :
    decodeFields st p satelliteInfoFields =
      some ([⟨0, readNumber .u4 p 0, true⟩, ⟨1, readNumber .u1 p 4, true⟩, ⟨2, readNumber .x1 p 5, true⟩], []) := by
  rw [satelliteInfoFields, decodeFields_num (by simp only [numSize]; omega),
    decodeFields_num (by simp only [numSize]; omega), decodeFields_num (by simp only [numSize]; omega)]
  rfl

/-- The count of a SatelliteInfo payload is its byte 4 (44_messages R212). -/
theorem groupCount_satelliteInfo (p : List Byte) (time flags : Word) :
    groupCount satelliteInfoGroup [⟨0, time, true⟩, ⟨1, readNumber .u1 p 4, true⟩, ⟨2, flags, true⟩] = memRead p 4 1 :=
  readNumber_unsigned (ty := .u1) rfl p 4

/-- Settles O41: the header is read, and the length is not the one its count asks for. -/
theorem wrongGroupSizeIsReported : Obligations.WrongGroupSizeIsReported := by
  intro s p a b hs hheader hlen hsize hgood
  have hgroup : decodePayload defaultConfig ⟨satelliteInfoFields, some satelliteInfoGroup⟩ p = .error .groupSize := by
    refine decodePayload_groupSize (decodeFields_satelliteInfo hheader _) rfl ?_
    rw [groupCount_satelliteInfo, Nat.mul_comm]
    exact hsize
  exact exec_frameRow_decode_error (row := ⟨0x01, 0x30, _, 2⟩) hs (List.mem_of_getElem? (i := 1) rfl) (by decide) rfl hgroup
    hlen hgood

end Sys2Proof.Machine
end

section
/-! PROOF. Stripping a text (43_field_decoder R193). -/

namespace Sys2Proof.Machine

theorem stripTrailing_eq_rdropWhile (s : List Byte) : stripTrailing s = s.rdropWhile (· == 0) := rfl

theorem stripTrailing_append_zeros (s : List Byte) : ∃ k, s = stripTrailing s ++ List.replicate k 0 := by
  have hzeros : s.rtakeWhile (· == 0) = List.replicate (s.rtakeWhile (· == 0)).length 0 :=
    List.eq_replicate_of_mem fun x hx => beq_iff_eq.1 (List.mem_rtakeWhile_imp (p := (· == 0)) hx)
  refine ⟨(s.rtakeWhile (· == 0)).length, ?_⟩
  rw [← hzeros]
  exact List.rdropWhile_append_rtakeWhile.symm

theorem getLast?_stripTrailing_ne (s : List Byte) : (stripTrailing s).getLast? ≠ some 0 := by
  intro hlast
  have hne : stripTrailing s ≠ [] := by
    intro hnil
    rw [hnil] at hlast
    cases hlast
  rw [List.getLast?_eq_some_getLast hne] at hlast
  exact List.rdropWhile_last_not _ s hne (beq_iff_eq.2 (Option.some.inj hlast))

/-- A text without zero bytes is what is left of it after any padding. -/
theorem stripTrailing_padded {s : List Byte} (hs : ∀ x ∈ s, x ≠ 0) (k : Nat) :
    stripTrailing (s ++ List.replicate k 0) = s := by
  induction k with
  | zero =>
    rw [List.replicate_zero, List.append_nil, stripTrailing_eq_rdropWhile, List.rdropWhile_eq_self_iff]
    exact fun hne hzero => hs _ (List.getLast_mem hne) (beq_iff_eq.1 hzero)
  | succ k ih =>
    rw [List.replicate_succ', ← List.append_assoc, stripTrailing_eq_rdropWhile, List.rdropWhile_concat_pos _ _ _ rfl]
    exact ih

theorem filter_padded {s : List Byte} (hs : ∀ x ∈ s, x ≠ 0) (k : Nat) :
    (s ++ List.replicate k 0).filter (fun x => x != 0) = s := by
  rw [List.filter_append, List.filter_replicate_of_neg (by decide), List.append_nil, List.filter_eq_self]
  exact fun x hx => bne_iff_ne.2 (hs x hx)

/-- Settles O58: the zero bytes taken off are the longest run at the end; text without zero bytes loses its padding only. -/
theorem textLosesItsPadding : Obligations.TextLosesItsPadding :=
  ⟨fun s => ⟨stripTrailing_append_zeros s, getLast?_stripTrailing_ne s⟩, fun _ => rfl,
    fun _ k hs => ⟨stripTrailing_padded hs k, filter_padded hs k⟩⟩

end Sys2Proof.Machine
end

section
/-! PROOF. Scaled values: the integer of the register over a power of ten, by the descriptor of the field or column
(43_field_decoder R189, R196; 00_scope R13). -/

namespace Sys2Proof.Machine

theorem numSigned_iff (ty : NumTy) : numSigned ty = true ↔ ty ∈ [NumTy.i1, .i2, .i4] := by cases ty <;> decide

theorem scaledValue_mul_pow (ty : NumTy) (k : Nat) (v : Word) : scaledValue ty k v * 10 ^ k = fieldInteger ty v :=
  div_mul_cancel₀ _ (pow_ne_zero k (by norm_num))

theorem fieldInteger_cast (ty : NumTy) (v : Word) :
    (fieldInteger ty v : ℚ) = if ty ∈ [NumTy.i1, .i2, .i4] then (v.toInt : ℚ) else (v.toNat : ℚ) := by
  simp only [fieldInteger, numSigned_iff]
  split_ifs
  · rfl
  · exact Int.cast_natCast _

/-- The first field of a layout that names `F[q]` gives the register its scale. -/
theorem semanticValue_of_field {cfg : Config} {t : Nat} {l : Layout} {fs gs : List Field} {q : Fin 32} {off k : Nat}
    {ty : NumTy} {unit : FieldUnit} {opt : Bool} {dflt : Word} (hl : layoutOf cfg t = some l)
    (hfields : l.fields = fs ++ .num q off ty k unit opt dflt :: gs) (hfirst : ∀ f ∈ fs, fieldDst f ≠ (false, q.val))
    (v : Word) : semanticValue cfg t q v = some (scaledValue ty k v) := by
  have hdesc : fieldDescriptor cfg t q = some (ty, k, unit) := by
    rw [fieldDescriptor, hl, Option.bind_some, hfields, List.findSome?_append, List.findSome?_eq_none_iff.2,
      Option.none_or]
    · simp
    · intro f hf
      cases f with
      | num dst =>
        refine if_neg ?_
        rintro rfl
        exact hfirst _ hf rfl
      | text => rfl
  rw [semanticValue, hdesc]
  rfl

/-- The first column of a layout's group that names `c` gives the cells of `c` their scale. -/
theorem semanticCell_of_column {cfg : Config} {t : Nat} {l : Layout} {g : Group} {cs ds : List Column} {d : Column}
    (hl : layoutOf cfg t = some l) (hgroup : l.group = some g) (hcols : g.cols = cs ++ d :: ds)
    (hfirst : ∀ x ∈ cs, x.col ≠ d.col) (v : Word) : semanticCell cfg t d.col v = some (scaledValue d.ty d.k v) := by
  have hfind : g.cols.find? (fun x => x.col == d.col) = some d := by
    rw [hcols, List.find?_append, List.find?_eq_none.2 fun x hx => mt beq_iff_eq.1 (hfirst x hx)]
    simp
  rw [semanticCell, columnDescriptor, hl, Option.bind_some, hgroup, Option.bind_some, hfind]
  rfl

theorem semanticValue_lat (v : Word) : semanticValue defaultConfig 1 15 v = some (scaledValue .i4 7 v) :=
  semanticValue_of_field (l := ⟨positionFixFields, none⟩) (fs := positionFixFields.take 15)
    (gs := positionFixFields.drop 16) rfl rfl (by decide) v

theorem semanticValue_hMSL (v : Word) : semanticValue defaultConfig 1 17 v = some (scaledValue .i4 3 v) :=
  semanticValue_of_field (l := ⟨positionFixFields, none⟩) (fs := positionFixFields.take 17)
    (gs := positionFixFields.drop 18) rfl rfl (by decide) v

/-- Settles O57: the first descriptor of a register or column gives its scale, and scaling is a division in `ℚ`. -/
theorem scaledValuesAreExact : Obligations.ScaledValuesAreExact := by
  refine ⟨fun ty k v => (scaledValue_mul_pow ty k v).trans (fieldInteger_cast ty v),
    fun _ _ _ _ _ _ _ _ _ _ _ _ v hl hfields hfirst => semanticValue_of_field hl hfields hfirst v,
    fun _ _ _ _ _ _ _ v hl hgroup hcols hfirst => semanticCell_of_column hl hgroup hcols hfirst v, ?_, ?_⟩
  · have hint : fieldInteger .i4 (readNumber .i4 [0x83, 0x77, 0x37, 0x1C] 0) = 473397123 := by decide
    rw [semanticValue_lat, scaledValue, hint]
    norm_num
  · have hint : fieldInteger .i4 (readNumber .i4 [0x40, 0xE2, 0x01, 0x00] 0) = 123456 := by decide
    rw [semanticValue_hMSL, scaledValue, hint]
    norm_num

end Sys2Proof.Machine
end

section
/-! PROOF. A payload that holds the mandatory fields of its layout is read field by field, and under a valid layout the body
read fits the record registers (43_field_decoder R185 to R196, 42_dispatch R176). -/

namespace Sys2Proof.Machine

/-! ### Field by field -/

/-- What is read of a numeric field: a mandatory one is inside the payload, an optional one takes its value or its default
(43_field_decoder R188, R190). -/
def numReading (p : List Byte) : Field → Option FieldVal
  | .num dst off ty _ _ false _ => some ⟨dst, readNumber ty p off, true⟩
  | .num dst off ty _ _ true dflt =>
    some ⟨dst, if off + numSize ty ≤ p.length then readNumber ty p off else dflt, decide (off + numSize ty ≤ p.length)⟩
  | .text _ _ _ _ _ _ _ => none

/-- What is read of a text field (43_field_decoder R190, R192). -/
def textReading (st : TextStrip) (p : List Byte) : Field → Option TextVal
  | .num _ _ _ _ _ _ _ => none
  | .text dst off len _ _ false _ => some ⟨dst, strip st (memReadBytes p off len)⟩
  | .text dst off len _ _ true _ =>
    some ⟨dst, if off + len ≤ p.length then strip st (memReadBytes p off len) else []⟩

/-- Every mandatory field is in bounds (43_field_decoder R187). -/
def MandatoryFit (p : List Byte) (fs : List Field) : Prop :=
  ∀ f ∈ fs, fieldOpt f = false → fieldOff f + fieldSize f ≤ p.length

theorem decodeFields_opt_text (st : TextStrip) (p : List Byte) (dst : Fin 2) (off len k : Nat) (unit : FieldUnit)
    (dflt : Word) (fs : List Field) :
    decodeFields st p (.text dst off len k unit true dflt :: fs) =
      (decodeFields st p fs).map (fun r =>
        (r.1, ⟨dst, if off + len ≤ p.length then strip st (memReadBytes p off len) else []⟩ :: r.2)) := by
  by_cases h : off + len ≤ p.length <;> simp [decodeFields, inBounds, h]

theorem decodeFields_of_mandatoryFit {p : List Byte} {fs : List Field} (h : MandatoryFit p fs) (st : TextStrip) :
    decodeFields st p fs = some (fs.filterMap (numReading p), fs.filterMap (textReading st p)) := by
  induction fs with
  | nil => rfl
  | cons f fs ih =>
    have hrest := ih fun g hg => h g (List.mem_cons_of_mem f hg)
    cases f with
    | num dst off ty k unit opt dflt =>
      cases opt with
      | false =>
        have hin : off + numSize ty ≤ p.length := h _ List.mem_cons_self rfl
        rw [decodeFields_num hin, hrest]
        rfl
      | true =>
        rw [decodeFields_opt, hrest]
        rfl
    | text dst off len k unit opt dflt =>
      cases opt with
      | false =>
        have hin : off + len ≤ p.length := h _ List.mem_cons_self rfl
        rw [decodeFields_text hin, hrest]
        rfl
      | true =>
        rw [decodeFields_opt_text, hrest]
        rfl

/-- Fields are decoded only when the mandatory ones are in bounds. -/
theorem mandatoryFit_of_decodeFields {st : TextStrip} {p : List Byte} {fs : List Field} {r : List FieldVal × List TextVal}
    (h : decodeFields st p fs = some r) : MandatoryFit p fs := by
  intro f hf hopt
  by_contra hshort
  rw [decodeFields_short st p fs ⟨f, hf, hopt, hshort⟩] at h
  cases h

theorem decodePayload_ungrouped {cfg : Config} {l : Layout} {p : List Byte} (hg : l.group = none)
    (hfit : MandatoryFit p l.fields) :
    decodePayload cfg l p =
      .ok ⟨l.fields.filterMap (numReading p), l.fields.filterMap (textReading cfg.textStrip p), []⟩ := by
  simp only [decodePayload, decodeFields_of_mandatoryFit hfit, hg]

theorem decodePayload_grouped {cfg : Config} {l : Layout} {g : Group} {p : List Byte} (hg : l.group = some g)
    (hfit : MandatoryFit p l.fields) (hsize : p.length = g.hdr + groupCount g (l.fields.filterMap (numReading p)) * g.item) :
    decodePayload cfg l p =
      .ok ⟨l.fields.filterMap (numReading p), l.fields.filterMap (textReading cfg.textStrip p),
        (List.range (groupCount g (l.fields.filterMap (numReading p)))).map (unpackItem cfg.gcols g p)⟩ := by
  simp only [decodePayload, decodeFields_of_mandatoryFit hfit, hg, if_pos hsize]

/-- Every body decoded holds what its layout's fields read, and as many rows as its count says. -/
theorem decodePayload_ok {cfg : Config} {l : Layout} {p : List Byte} {b : Decoded} (h : decodePayload cfg l p = .ok b) :
    b.fields = l.fields.filterMap (numReading p) ∧ b.texts = l.fields.filterMap (textReading cfg.textStrip p) ∧
      (b.rows = [] ∨ ∃ g, l.group = some g ∧ b.rows.length = groupCount g b.fields) := by
  rw [decodePayload] at h
  split at h
  · cases h
  next fields texts hd =>
    cases hd.symm.trans (decodeFields_of_mandatoryFit (mandatoryFit_of_decodeFields hd) cfg.textStrip)
    split at h
    · cases h
      exact ⟨rfl, rfl, .inl rfl⟩
    next g hg =>
      split_ifs at h
      cases h
      exact ⟨rfl, rfl, .inr ⟨g, hg, by rw [List.length_map, List.length_range]⟩⟩

/-! ### The body fits the registers -/

/-- A decoded body names each register once, its texts are at most `tm` bytes, and the arena has its rows. -/
structure Decoded.Fits (tm : Nat) (b : Decoded) : Prop where
  fieldsDistinct : (b.fields.map (·.reg)).Nodup
  textsDistinct : (b.texts.map (·.reg)).Nodup
  textLengths : ∀ tv ∈ b.texts, tv.bytes.length ≤ tm
  rowCount : b.rows.length ≤ 255

theorem fieldDst_of_numReading {p : List Byte} {f : Field} {v : FieldVal} (h : numReading p f = some v) :
    fieldDst f = (false, v.reg.val) := by
  unfold numReading at h
  split at h <;> cases h <;> rfl

theorem fieldDst_of_textReading {st : TextStrip} {p : List Byte} {f : Field} {v : TextVal}
    (h : textReading st p f = some v) : fieldDst f = (true, v.reg.val) := by
  unfold textReading at h
  split at h <;> cases h <;> rfl

/-- Distinct destinations are distinct registers, of the numbers and of the texts. -/
theorem readings_nodup {fs : List Field} (h : (fs.map fieldDst).Nodup) (st : TextStrip) (p : List Byte) :
    ((fs.filterMap (numReading p)).map (·.reg)).Nodup ∧ ((fs.filterMap (textReading st p)).map (·.reg)).Nodup := by
  have hdst : fs.Pairwise (fun f f' => fieldDst f ≠ fieldDst f') := List.pairwise_map.1 h
  refine ⟨List.pairwise_map.2 (hdst.filterMap _ fun f f' hne v hv v' hv' heq => hne ?_),
    List.pairwise_map.2 (hdst.filterMap _ fun f f' hne v hv v' hv' heq => hne ?_)⟩
  · rw [fieldDst_of_numReading hv, fieldDst_of_numReading hv', heq]
  · rw [fieldDst_of_textReading hv, fieldDst_of_textReading hv', heq]

theorem groupCount_of_fieldValue {g : Group} {fields : List FieldVal} {v : Word}
    (h : fieldValue fields g.cnt.val = some v) : groupCount g fields = v.toNat := by
  rw [groupCount, h]

/-- The count of a valid group is a mandatory `U1` field, so it is below 256 (42_dispatch R176 item 7). -/
theorem groupCount_lt {cfg : Config} {l : Layout} {g : Group} (hl : layoutValid cfg l = true) (hg : l.group = some g)
    (p : List Byte) : groupCount g (l.fields.filterMap (numReading p)) < 256 := by
  obtain ⟨hdst, -, -, -, hgroup⟩ := (layoutValid_iff cfg l).1 hl
  obtain ⟨⟨off, unit, dflt, hcount⟩, -⟩ := (groupValid_iff cfg l.fields g).1 (hgroup g hg)
  obtain ⟨hdistinct, -⟩ := readings_nodup hdst .all p
  have hmem : ⟨g.cnt, readNumber .u1 p off, true⟩ ∈ l.fields.filterMap (numReading p) :=
    List.mem_filterMap.2 ⟨_, hcount, rfl⟩
  rw [groupCount_of_fieldValue (fieldValue_of_mem hdistinct hmem), readNumber_unsigned rfl]
  exact memRead_lt p off 1

/-- What a valid layout decodes fits the registers. -/
theorem decodePayload_fits {cfg : Config} {l : Layout} (hl : layoutValid cfg l = true) {p : List Byte} {b : Decoded}
    (h : decodePayload cfg l p = .ok b) : b.Fits cfg.tmax := by
  obtain ⟨hdst, -⟩ := (layoutValid_iff cfg l).1 hl
  obtain ⟨hfields, htexts, hrows⟩ := decodePayload_ok h
  obtain ⟨hf, ht⟩ := readings_nodup hdst cfg.textStrip p
  refine ⟨hfields ▸ hf, htexts ▸ ht, decodePayload_texts_fit hl h, ?_⟩
  rcases hrows with hnone | ⟨g, hg, hcount⟩
  · rw [hnone]
    exact Nat.zero_le _
  · rw [hcount, hfields]
    exact Nat.le_of_lt_succ (groupCount_lt hl hg p)

end Sys2Proof.Machine
end

section
/-! PROOF. The record registers carry the decoded record that is delivered (10_state R33 to R42, 42_dispatch R170). -/

namespace Sys2Proof.Machine

/-! ### Register by register -/

theorem fieldFile_getElem {tm : Nat} {b : Decoded} (hb : b.Fits tm) {fv : FieldVal} (hv : fv ∈ b.fields)
    (unnamed : Nat → Word) : (fieldFile unnamed b)[fv.reg] = fv.value := by
  rw [Fin.getElem_fin, fieldFile, tabulate_getElem, fieldValue_of_mem hb.fieldsDistinct hv, Option.getD_some]

/-- The mask of the registers of a list has the bits of those registers. -/
theorem maskOf_map_getLsbD {α : Type} {w : Nat} (reg : α → Fin w) (l : List α) (q : Fin w) :
    (maskOf w (l.map fun x => (reg x).val)).getLsbD q.val = l.any fun x => reg x == q := by
  rw [maskOf_getLsbD, decide_eq_true q.isLt, Bool.true_and, Bool.eq_iff_iff]
  simp [Fin.ext_iff]

theorem maskOf_present_getLsbD (l : List FieldVal) (q : Fin 32) :
    (maskOf 32 ((l.filter (·.present)).map (·.reg.val))).getLsbD q.val = l.any fun fv => fv.reg == q && fv.present := by
  rw [maskOf_map_getLsbD, List.any_filter]
  simp only [Bool.and_comm]

theorem arena_getElem {b : Decoded} {k : Fin 255} {col : Fin 4} {x : Word}
    (h : (b.rows[k.val]?).bind (fun cells => cells[col.val]?) = some (some x)) (draw : Nat) :
    ((arena draw b)[k])[col] = x := by
  simp only [Fin.getElem_fin, arena, tabulate_getElem, h, Option.join_some, Option.getD_some]

theorem textFile_getElem {tm : Nat} {b : Decoded} (hb : b.Fits tm) {tv : TextVal} (hv : tv ∈ b.texts) (draw : Nat) :
    (textFile tm draw b)[tv.reg] = tv.bytes := by
  rw [Fin.getElem_fin, textFile, tabulate_getElem, textValue_of_mem hb.textsDistinct hv, Option.getD_some]

/-! ### The record delivered -/

/-- The registers that a delivery writes carry its record, whatever stands in the registers the layout does not name. -/
theorem carries_loadBody {tm : Nat} {b : Decoded} (hb : b.Fits tm) (htm : tm < 32) (v : Variant) (c i : Byte) (n : Half)
    (row draw : Nat) (ack : Option AckName) (unnamed : Nat → Word) (r : RecRegs) :
    Carries
      (ackRegs draw ack (loadBody tm draw (fieldFile unnamed b) b
        { r with tag := variantTag v, cls := c, id := i, len := n, name := some row }))
      v c i n row b ack := by
  rw [ackRegs_others]
  refine ⟨rfl, rfl, rfl, rfl, rfl, fun fv hv => fieldFile_getElem hb hv unnamed,
    maskOf_map_getLsbD FieldVal.reg b.fields, maskOf_present_getLsbD b.fields, ?_, fun k col x h => arena_getElem h draw,
    fun tv hv => ⟨textFile_getElem hb hv draw, ?_⟩, maskOf_map_getLsbD TextVal.reg b.texts, ?_⟩
  · have hrows := hb.rowCount
    exact (BitVec.toNat_ofNat _ _).trans (Nat.mod_eq_of_lt (by omega))
  · have hlen := hb.textLengths tv hv
    simp only [loadBody, Fin.getElem_fin, tabulate_getElem, textValue_of_mem hb.textsDistinct hv, Option.getD_some,
      BitVec.toNat_ofNat]
    exact Nat.mod_eq_of_lt (by omega)
  · rcases ack with _ | k | _
    · trivial
    · exact ⟨rfl, rfl⟩
    · rfl

/-- The row of a valid identity table whose layout decodes the payload delivers the body under its number. -/
theorem dispatch_of_decode_ok {s : State} {row : IdRow} {r : Nat} {v : Variant} {l : Layout} {p : List Byte} {b : Decoded}
    (hv : tablesValid s.cfg = true) (hrow : s.cfg.idt[r]? = some row) (ht : row.tag ≠ 0)
    (hu : usableLayout s.cfg row.tag = some (v, l)) (hb : decodePayload s.cfg l p = .ok b) (n : Half) :
    dispatch row.cls row.id n p s = .next (deliverDecoded v row.cls row.id n p r b s) := by
  simp only [dispatch, lookup_of_row hv hrow, if_neg ht, hu, hb]

/-- A valid frame of a known identity that its layout decodes is delivered under the default configuration: `RAWFRAME`, the
record, and the record registers that carry it (40_frame_scanner R139, 42_dispatch R170). `Resolve` reads the field
registers of the record itself, so its result `ack` is found from any state. -/
theorem exec_frameRow_decoded {s : State} {row : IdRow} {r : Nat} {v : Variant} {l : Layout} {p : List Byte} {a b : Byte}
    {body : Decoded} {ack : Option AckName} (hs : Hunting s) (hrow : defaultIdt[r]? = some row) (ht : row.tag ≠ 0)
    (hu : usableLayout defaultConfig row.tag = some (v, l)) (hbody : decodePayload defaultConfig l p = .ok body)
    (hack : ∀ u, ackPart defaultConfig v (recordFile v row.cls row.id p body u) = ack) (hlen : p.length ≤ 65535)
    (hgood : GoodChecksum row.cls row.id p a b) :
    ∃ t, exec (frameRow row.cls row.id p a b) s = .next t ∧ Delivered v row.cls row.id p a b r body ack s t := by
  obtain ⟨u, htaken, hcfg, herr, hout, hexec⟩ := exec_frameRow_good hs hlen hgood
  have hfits : body.Fits u.cfg.tmax := hcfg ▸ decodePayload_fits (usableLayout_valid hu) hbody
  have hdispatch := dispatch_of_decode_ok (s := emit (.rawframe (tableFrame row.cls row.id p a b)) u) (r := r)
    (by rw [emit_cfg, hcfg]; exact defaultConfig_tablesValid) (by rw [emit_cfg, hcfg]; exact hrow) ht
    (by rw [emit_cfg, hcfg]; exact hu) (by rw [emit_cfg, hcfg]; exact hbody) (BitVec.ofNat 16 p.length)
  have hpart : ackPart u.cfg v (recordFile v row.cls row.id p body (emit (.rawframe (tableFrame row.cls row.id p a b)) u)) =
      ack := by rw [hcfg]; exact hack _
  refine ⟨_, hexec.trans hdispatch, htaken, ?_, ?_, herr⟩
  · rw [deliverDecoded_out, emit_cfg, hpart, emit_out, hout, List.append_assoc]
    rfl
  · rw [← hpart]
    exact carries_loadBody hfits (by rw [hcfg]; decide) v _ _ _ r u.draws _ _ u.record

end Sys2Proof.Machine
end

section
/-! PROOF. The seven messages of the default tables: each layout reads its payload, and the frame delivers the record
(44_messages R210 to R220); the frame of `CFGMSG` fed back (44_messages R217). -/

namespace Sys2Proof.Machine

/-- The mandatory fields are in bounds of every payload that reaches past the last of them. -/
theorem mandatoryFit_of_ends {fs : List Field} {m : Nat} (hends : ∀ f ∈ fs, fieldOpt f = false → fieldOff f + fieldSize f ≤ m)
    {p : List Byte} (hp : m ≤ p.length) : MandatoryFit p fs :=
  fun f hf hopt => (hends f hf hopt).trans hp

/-- The fields and texts of a layout without a group. -/
def ungroupedBody (fs : List Field) (p : List Byte) : Decoded :=
  ⟨fs.filterMap (numReading p), fs.filterMap (textReading .trailing p), []⟩

/-- A frame of a layout without a group whose mandatory fields end within the first `m` bytes of its payload. -/
theorem exec_frameRow_ungrouped {s : State} {row : IdRow} {r m : Nat} {v : Variant} {fs : List Field} {p : List Byte}
    {a b : Byte} {ack : Option AckName} (hs : Hunting s) (hrow : defaultIdt[r]? = some row) (ht : row.tag ≠ 0)
    (hu : usableLayout defaultConfig row.tag = some (v, ⟨fs, none⟩))
    (hends : ∀ f ∈ fs, fieldOpt f = false → fieldOff f + fieldSize f ≤ m) (hp : m ≤ p.length)
    (hack : ∀ u, ackPart defaultConfig v (recordFile v row.cls row.id p (ungroupedBody fs p) u) = ack)
    (hlen : p.length ≤ 65535) (hgood : GoodChecksum row.cls row.id p a b) :
    ∃ t, exec (frameRow row.cls row.id p a b) s = .next t ∧
      Delivered v row.cls row.id p a b r (ungroupedBody fs p) ack s t := by
  have hbody := decodePayload_ungrouped (cfg := defaultConfig) (l := ⟨fs, none⟩) rfl (mandatoryFit_of_ends hends hp)
  exact exec_frameRow_decoded hs hrow ht hu hbody hack hlen hgood

/-! ### Messages without a group -/

/-- Settles O31: the mandatory fields end at 78, and three optional ones follow. -/
theorem navPvtDeliversPositionFix : Obligations.NavPvtDeliversPositionFix := fun _ _ _ _ hs hp =>
  exec_frameRow_ungrouped (row := ⟨0x01, 0x07, _, 1⟩) (r := 0) (fs := positionFixFields) hs rfl (by decide) rfl (by decide) hp
    fun _ => rfl

/-- Settles O33: the fields end at 18. -/
theorem cfgPrtDeliversPortConfig : Obligations.CfgPrtDeliversPortConfig := fun _ _ _ _ hs hp =>
  exec_frameRow_ungrouped (row := ⟨0x06, 0x00, _, 3⟩) (r := 2) (fs := portConfigFields) hs rfl (by decide) rfl (by decide) hp
    fun _ => rfl

/-- Settles O34: the fields end at 8. -/
theorem cfgMsgDeliversMessageRates : Obligations.CfgMsgDeliversMessageRates := fun _ _ _ _ hs hp =>
  exec_frameRow_ungrouped (row := ⟨0x06, 0x01, _, 4⟩) (r := 3) (fs := messageRateConfigFields) hs rfl (by decide) rfl
    (by decide) hp fun _ => rfl

/-- Settles O35: the texts end at 40, and the default `TEXT_STRIP` takes off their trailing zeros. -/
theorem monVerDeliversVersionTexts : Obligations.MonVerDeliversVersionTexts := fun _ _ _ _ hs hp =>
  exec_frameRow_ungrouped (row := ⟨0x0A, 0x04, _, 5⟩) (r := 4) (fs := versionInfoFields) hs rfl (by decide) rfl (by decide) hp
    fun _ => rfl

/-! ### Acknowledgements -/

/-- A `U1` reads the payload's byte, 0 past its end. -/
theorem readNumber_u1 (p : List Byte) (off : Nat) : readNumber .u1 p off = ((p[off]?).getD 0).setWidth 32 := by
  apply BitVec.eq_of_toNat_eq
  rw [readNumber_unsigned rfl, BitVec.toNat_setWidth_of_le (by decide), numSize]
  cases hx : p[off]? with
  | some x => exact memRead_one hx
  | none =>
    rw [memRead, memReadBytes, List.drop_eq_nil_of_le (List.getElem?_eq_none_iff.1 hx)]
    rfl

/-- The default identity table searched for each of its rows, and for any other identity (42_dispatch R172, R178). -/
theorem resolveAck_defaultConfig (f : Vector Word 32) :
    resolveAck defaultConfig f = defaultAck (f[0].setWidth 8) (f[1].setWidth 8) := by
  rw [resolveAck]
  generalize f[0].setWidth 8 = c, f[1].setWidth 8 = i
  cases hnamed : namedIdentity c i with
  | false =>
    obtain ⟨h1, h2, h3, h4, h5, h6, h7⟩ := (namedIdentity_eq_false c i).1 hnamed
    simp only [lookup_defaultConfig_of_unnamed hnamed, defaultAck, if_neg, h1, h2, h3, h4, h5, h6, h7, not_false_eq_true]
  | true =>
    simp only [namedIdentity, Bool.or_eq_true, Bool.and_eq_true, beq_iff_eq] at hnamed
    rcases hnamed with (((((⟨rfl, rfl⟩ | ⟨rfl, rfl⟩) | ⟨rfl, rfl⟩) | ⟨rfl, rfl⟩) | ⟨rfl, rfl⟩) | ⟨rfl, rfl⟩) | ⟨rfl, rfl⟩ <;> rfl

/-- `Resolve` reads the first two bytes of an acknowledgement's payload. -/
theorem resolveAck_acknowledge (v : Variant) (c i : Byte) (p : List Byte) (u : State) :
    resolveAck defaultConfig (recordFile v c i p (ungroupedBody acknowledgeFields p) u) =
      defaultAck ((p[0]?).getD 0) ((p[1]?).getD 0) := by
  have hbyte (off : Nat) : (readNumber .u1 p off).setWidth 8 = (p[off]?).getD 0 := by
    rw [readNumber_u1, BitVec.setWidth_setWidth_of_le _ (by decide), BitVec.setWidth_eq]
  rw [resolveAck_defaultConfig, recordFile, fieldFile, tabulate_getElem, tabulate_getElem, ← hbyte 0, ← hbyte 1]
  rfl

/-- Settles O36: the fields end at 2, and the table is searched for the identity they name. -/
theorem ackAckDeliversAcknowledgement : Obligations.AckAckDeliversAcknowledgement := fun _ _ _ _ hs hp =>
  exec_frameRow_ungrouped (row := ⟨0x05, 0x01, _, 6⟩) (r := 5) (fs := acknowledgeFields) hs rfl (by decide) rfl (by decide) hp
    fun u => congrArg some (resolveAck_acknowledge .acknowledgeAck 0x05 0x01 _ u)

/-- Settles O37, as its counterpart does: the row and the variant are those of the refusal. -/
theorem ackNakDeliversRefusal : Obligations.AckNakDeliversRefusal := fun _ _ _ _ hs hp =>
  exec_frameRow_ungrouped (row := ⟨0x05, 0x00, _, 7⟩) (r := 6) (fs := acknowledgeFields) hs rfl (by decide) rfl (by decide) hp
    fun u => congrArg some (resolveAck_acknowledge .acknowledgeNak 0x05 0x00 _ u)

/-! ### Satellites -/

/-- The cells of one satellite; an item begins at 8 and takes 12 bytes (44_messages R212). -/
theorem unpackItem_satelliteInfo (p : List Byte) (r : Nat) :
    unpackItem 4 satelliteInfoGroup p r =
      [some (readNumber .u1 p (8 + 12 * r + 1)), some (readNumber .i1 p (8 + 12 * r + 5)),
        some (readNumber .i2 p (8 + 12 * r + 6)), some (readNumber .u1 p (8 + 12 * r + 4))] := by
  rw [Nat.mul_comm 12 r]
  rfl

/-- Settles O32: the header gives the count, and the length is the one the count asks for. -/
theorem navSvinfoDeliversSatellites : Obligations.NavSvinfoDeliversSatellites := by
  intro s p a b hs hsize hlen hgood
  have hfit : MandatoryFit p satelliteInfoFields := mandatoryFit_of_ends (m := 6) (by decide) (by omega)
  have hcount : groupCount satelliteInfoGroup (satelliteInfoFields.filterMap (numReading p)) = memRead p 4 1 :=
    groupCount_satelliteInfo p _ _
  have hbody := decodePayload_grouped (cfg := defaultConfig) (l := ⟨satelliteInfoFields, some satelliteInfoGroup⟩) rfl hfit
    (by rw [hcount, Nat.mul_comm]; exact hsize)
  rw [hcount, show unpackItem defaultConfig.gcols satelliteInfoGroup p = _ from funext (unpackItem_satelliteInfo p)] at hbody
  exact exec_frameRow_decoded (row := ⟨0x01, 0x30, _, 2⟩) (r := 1) hs rfl (by decide) rfl hbody (fun _ => rfl) hlen hgood

/-! ### The frame of `CFGMSG`, fed back -/

theorem sendFrame_run {s : State} (hm : s.mode = .run) (c i : Byte) (p : List Byte) :
    sendFrame c i p s = emit (.txframe (buildFrame s.cfg c i p)) s := by
  rw [sendFrame, hm]

/-- The request puts out its frame, and the block goes on hunting (45_poll_builder R233). -/
theorem exec_cfgmsg_hunting {s : State} (hs : Hunting s) (c j r0 r1 r2 r3 r4 r5 : Byte) :
    ∃ t, exec (.cfgmsg c j r0 r1 r2 r3 r4 r5) s = .next t ∧ Hunting t ∧
      t.out = s.out ++ [.txframe (buildFrame defaultConfig 0x06 0x01 [c, j, r0, r1, r2, r3, r4, r5])] := by
  have ⟨hm, _, hc, _⟩ := hs
  refine ⟨_, congrArg Host.Outcome.next (sendFrame_run hm _ _ _), hs, ?_⟩
  rw [emit_out, hc]
  rfl

/-- Settles O43: the frame sent is a CFG-MSG frame with the checksum pair of its body, and each field is one of its bytes. -/
theorem rateFramesRoundTrip : Obligations.RateFramesRoundTrip := by
  intro s c j r0 r1 r2 r3 r4 r5 hs
  obtain ⟨t, hsend, ht, hsent⟩ := exec_cfgmsg_hunting hs c j r0 r1 r2 r3 r4 r5
  obtain ⟨u, hfeed, -, hout, -⟩ :=
    cfgMsgDeliversMessageRates t [c, j, r0, r1, r2, r3, r4, r5] _ _ ht le_rfl (by simp) rfl
  simp only [readNumber_u1] at hout
  exact ⟨_, t, u, hsend, hsent, hfeed, hout⟩

end Sys2Proof.Machine
end

section
/-! PROOF. The frames of the TX requests, byte by byte (45_poll_builder R231, R233). -/

namespace Sys2Proof.Machine

/-- A TX request in both modes, told by the bytes of its frame (45_poll_builder R234). -/
theorem sendFrame_of_buildFrame {s : State} {c i : Byte} {p f : List Byte} (hf : buildFrame s.cfg c i p = f) :
    sendFrame c i p s =
      match s.mode with
      | .run => { s with out := s.out ++ [.txframe f] }
      | .halt => s := by
  rw [← hf]
  rfl

/-! ### `POLL` -/

/-- An empty frame's body is `c i 00 00`: its bytes count 4, 3, 2 and 1 times in the second sum (41_checksum R161). -/
theorem cksum_emptyBody (c i : Byte) : cksum 256 (frameBody c i 0 []) = (c + i, 4 * c + 3 * i) := by
  have hsum : byteSum (frameBody c i 0 []) = c.toNat + i.toNat := rfl
  have hweighted : weightedSum (frameBody c i 0 []) = 4 * c.toNat + 3 * i.toNat := rfl
  rw [cksum_256, hsum, hweighted]
  simp only [BitVec.ofNat_add, BitVec.ofNat_mul, BitVec.ofNat_toNat, BitVec.setWidth_eq]
  rfl

theorem buildFrame_empty {cfg : Config} (hck : cfg.ckMod = 256) (c i : Byte) :
    buildFrame cfg c i [] = [cfg.preamble0, cfg.preamble1, c, i, 0, 0, c + i, 4 * c + 3 * i] := by
  have hpair : cksum cfg.ckMod (frameBody c i (BitVec.ofNat 16 0) []) = (c + i, 4 * c + 3 * i) := by
    rw [hck]
    exact cksum_emptyBody c i
  rw [buildFrame, List.length_nil, hpair]
  rfl

/-- Settles O24: the frame sent is the empty one of the identity. -/
theorem pollSendsAnEmptyFrame : Obligations.PollSendsAnEmptyFrame := fun _ c j hck =>
  congrArg Host.Outcome.next (sendFrame_of_buildFrame (buildFrame_empty hck c j))

/-! ### `CFGMSG` -/

/-- A frame of an eight-byte payload, whose length is sent as `08 00`. -/
theorem buildFrame_eight {p : List Byte} (hp : p.length = 8) (cfg : Config) (c i : Byte) :
    buildFrame cfg c i p =
      [cfg.preamble0, cfg.preamble1, c, i, 8, 0] ++ p ++
        [(cksum cfg.ckMod ([c, i, 8, 0] ++ p)).1, (cksum cfg.ckMod ([c, i, 8, 0] ++ p)).2] := by
  have hbody : frameBody c i (BitVec.ofNat 16 8) p = [c, i, 8, 0] ++ p := rfl
  rw [buildFrame, hp, frameBytes, hbody]
  rfl

/-- At six ports all the rates of a request are sent (00_scope R7). -/
theorem execCfgmsg_six_ports {s : State} (hports : s.cfg.nports = 6) (c j r0 r1 r2 r3 r4 r5 : Byte) :
    execCfgmsg c j r0 r1 r2 r3 r4 r5 s =
      .next (sendFrame s.cfg.rateCls s.cfg.rateId [c, j, r0, r1, r2, r3, r4, r5] s) := by
  rw [execCfgmsg, hports]
  rfl

/-- Settles O25: the eight bytes sent are the identity and the six rates. -/
theorem cfgmsgSendsTheRates : Obligations.CfgmsgSendsTheRates := by
  intro s c j r0 r1 r2 r3 r4 r5 hports
  have hframe := buildFrame_eight (p := [c, j, r0, r1, r2, r3, r4, r5]) rfl s.cfg s.cfg.rateCls s.cfg.rateId
  exact (execCfgmsg_six_ports hports c j r0 r1 r2 r3 r4 r5).trans
    (congrArg Host.Outcome.next (sendFrame_of_buildFrame hframe))

end Sys2Proof.Machine
end

section
/-! PROOF. From every state with the invariant a step answers: each event answers and keeps the invariant, so the next event
finds it again (60_exceptions R252, 20_memory R69). -/

namespace Sys2Proof.Machine

/-- A meaning that answers from every state with the invariant, with a state that has it again. -/
def Progresses (f : State → Res) : Prop := ∀ s, BlockInv s → ∃ t, f s = .next t ∧ BlockInv t

theorem KeepsInv.progresses {f : State → Res} (hkeeps : KeepsInv f) (hanswers : ∀ s, BlockInv s → Answers (f s)) :
    Progresses f := by
  intro s hs
  obtain ⟨t, ht⟩ := hanswers s hs
  exact ⟨t, ht, hkeeps s t hs ht⟩

theorem Progresses.answers {f : State → Res} (hf : Progresses f) {s : State} (hs : BlockInv s) : Answers (f s) := by
  obtain ⟨t, ht, -⟩ := hf s hs
  exact ⟨t, ht⟩

/-- The second of two events starts from the invariant that the first one kept. -/
theorem Progresses.andThen {f g : State → Res} (hf : Progresses f) (hg : Progresses g) :
    Progresses (fun s => Machine.andThen (f s) g) := by
  intro s hs
  obtain ⟨t, hft, ht⟩ := hf s hs
  obtain ⟨u, hgu, hu⟩ := hg t ht
  exact ⟨u, andThen_eq_next.2 ⟨t, hft, hgu⟩, hu⟩

/-- `RST` answers under valid and under invalid tables. -/
theorem execRst_answers (s : State) : Answers (execRst s) := by
  rw [execRst]
  split_ifs <;> exact ⟨_, rfl⟩

theorem progresses_compositional : Compositional Progresses where
  idle := keepsInv_compositional.idle.progresses fun _ _ => ⟨_, rfl⟩
  seq := Progresses.andThen
  byte b := (takeByte_keepsInv b).progresses fun _ hs => takeByte_answers hs b
  eoc := takeEoc_keepsInv.progresses fun _ _ => ⟨_, rfl⟩
  rst := execRst_keepsInv.progresses fun s _ => execRst_answers s
  send c i p := (sendFrame_keepsInv c i p).progresses fun _ _ => ⟨_, rfl⟩

/-- Settles O48: an idle step answers, and every instruction and every run of bytes progresses. -/
theorem everyStepAnswers : Obligations.EveryStepAnswers := by
  intro s hs
  cases hq : s.inq with
  | nil => exact ⟨s, step_idle hq⟩
  | cons w rest =>
    have hs' : BlockInv { s with inq := rest } := hs
    cases hd : decode w with
    | ok i =>
      rw [step_decoded hq hd]
      exact (progresses_compositional.exec i).answers hs'
    | error e =>
      rw [step_undecoded hq hd]
      exact (progresses_compositional.takeUndecoded w).answers hs'

end Sys2Proof.Machine
end

section
/-! PROOF. Mode `HALT` consumes every event but `RST` with no effect (60_exceptions R262). -/

namespace Sys2Proof.Machine

variable {s : State}

theorem inPhase_halt (h : s.mode = .halt) (row : Phase) (rule : Byte → State → Res) (d : Byte) :
    inPhase row rule d s = .next s := by
  have hmiss : ¬ (s.mode = .run ∧ s.phase = row) := by simp [h]
  rw [inPhase_miss hmiss, takeByte_halt h]

theorem takeEoc_halt (h : s.mode = .halt) : takeEoc s = s := by simp only [takeEoc, h]

theorem sendFrame_halt (h : s.mode = .halt) (c i : Byte) (p : List Byte) : sendFrame c i p s = s := by
  simp only [sendFrame, h]

/-- Settles O7: the frames are runs of bytes, and each of `BYTE`, `EOC` and the TX requests leaves the state in mode `HALT`. -/
theorem haltConsumesEveryOtherEvent : Obligations.HaltConsumesEveryOtherEvent := by
  intro i s hi h
  cases i with
  | rst => exact absurd rfl hi
  | navPvt | navSvinfo | cfgPrt | cfgMsg | monVer | ackAck | ackNak | raw => exact feed_halt h _
  | byte d => exact takeByte_halt h d
  | byteHunt | byteSync1 | byteCls | byteId | byteLen0 | byteLen1 | bytePayload | byteCk0 | byteCk1 =>
    apply inPhase_halt h
  | eoc => exact congrArg Host.Outcome.next (takeEoc_halt h)
  | byteEoc d => exact andThen_eq_next.2 ⟨s, takeByte_halt h d, congrArg Host.Outcome.next (takeEoc_halt h)⟩
  | nop | txnop => rfl
  | poll | cfgmsg => exact congrArg Host.Outcome.next (sendFrame_halt h _ _ _)

end Sys2Proof.Machine
end

section
/-! PROOF. `RST` validates the presented tables and loads them; no other event writes the mode or the configuration
(60_exceptions R261, 00_scope R9, 70_reset_and_hazards R280). -/

namespace Sys2Proof.Machine

/-- What `RST` does to the mode, the configurations and the input queue. -/
theorem execRst_control {s t : State} (h : execRst s = .next t) :
    t.mode = (if tablesValid s.cfgIn = true then .run else .halt) ∧ t.cfg = s.cfgIn ∧ t.cfgIn = s.cfgIn ∧
      t.inq = s.inq := by
  rw [execRst] at h
  split_ifs at h ⊢ <;>
  · cases h
    exact ⟨rfl, rfl, rfl, rfl⟩

/-- Settles O8: `RST` by the table check, every other instruction by what it keeps. -/
theorem onlyRstWritesModeAndConfiguration : Obligations.OnlyRstWritesModeAndConfiguration := by
  refine ⟨fun s t h => ?_, fun i s t hi h => ?_, fun i s t h => ?_⟩
  · obtain ⟨hmode, -⟩ := execRst_control h
    exact hmode
  · obtain ⟨hmode, hcfg, -⟩ := exec_keepsControl hi h
    exact ⟨hmode, hcfg⟩
  · by_cases hi : i = .rst
    · subst hi
      obtain ⟨-, -, hkept⟩ := execRst_control h
      exact hkept
    · obtain ⟨-, -, hkept⟩ := exec_keepsControl hi h
      exact hkept

end Sys2Proof.Machine
end

section
/-! PROOF. A frame whose checksum bytes are not the computed pair is reported and not delivered (60_exceptions R247). -/

namespace Sys2Proof.Machine

theorem ckMatch_iff (b : Byte) (s : State) : ckMatch b s = true ↔ s.rxa = s.cka ∧ b = s.ckb := by
  rw [ckMatch, Bool.and_eq_true, beq_iff_eq, beq_iff_eq]

/-- Settles O17: the row in its phase is the rule of `CK1`, whose test fails; the error takes no free value. -/
theorem byteCk1ReportsABadChecksum : Obligations.ByteCk1ReportsABadChecksum := by
  intro s d hm hp hbad
  have hreport : scanCk1 d s =
      .next (raiseErr (.checksumError s.cls s.id s.len s.rxa d s.cka s.ckb) { s with phase := .hunt }) :=
    if_neg (mt (ckMatch_iff d s).1 hbad)
  exact (execByteCk1_hit hm hp d).trans hreport

end Sys2Proof.Machine
end

section
/-! PROOF. The state after reset runs and hunts, and both invariants hold of it (70_reset_and_hazards R280, R281, 10_state
R49). -/

namespace Sys2Proof.Machine

/-- The default tables pass the check that sets `MODE` at reset. -/
theorem reset_mode_run : State.reset.mode = .run := if_pos (e := Mode.halt) defaultConfig_tablesValid

/-- An empty buffer, valid tables, room for every length, and a scanner that hunts. -/
theorem reset_blockInv : BlockInv State.reset :=
  have hfits : BufferFits State.reset := ⟨Nat.le_refl _, Nat.le_refl _⟩
  ⟨reset_memory_wf, fun _ => defaultConfig_tablesValid, hfits, trivial⟩

/-- At reset both text registers are empty. -/
theorem reset_textOk : TextOk State.reset :=
  have htm : defaultConfig.tmax < 32 := by decide
  textOk_of_texts (f := fun _ => []) ⟨htm, htm⟩ (fun _ => Nat.zero_le _) rfl rfl

/-- Settles O5: the mode by the table check, each invariant by its own lemma, and the scanner registers as they are
written. -/
theorem resetIsRunningAndHunting : Obligations.ResetIsRunningAndHunting :=
  ⟨defaultConfig_tablesValid, reset_mode_run, rfl, rfl, rfl, rfl, rfl, rfl, rfl, rfl, reset_blockInv, reset_textOk⟩

end Sys2Proof.Machine
end

section
/-! PROOF. `RST` wins over every other bit of its word, clears the scanner in every state, and runs or halts as the presented
tables are valid or not (70_reset_and_hazards R280, 30_encoding R118). -/

namespace Sys2Proof.Machine

variable {s : State}

theorem exec_rst_valid (h : tablesValid s.cfgIn = true) :
    exec .rst s = .next { resetRegs s with mode := .run } := if_pos h

theorem exec_rst_invalid (h : ¬ tablesValid s.cfgIn = true) :
    exec .rst s = .next (raiseErr .configFault { resetRegs s with mode := .halt }) := if_neg h

/-- The code of `ConfigFault` (60_exceptions R245). -/
theorem errRegsAfter_configFault_code (draw : Nat) (r : ErrRegs) : (errRegsAfter draw r .configFault).code = 5 := rfl

/-- Settles O6: the decoder tests the `rst` bit before the others; the state `RST` answers is `resetRegs` with the mode the
table check gives, and under invalid tables the error taken on top of it, which writes no scanner register. -/
theorem rstRestartsTheBlock : Obligations.RstRestartsTheBlock := by
  refine ⟨fun _ => decode_rst, fun s => ?_⟩
  by_cases hv : tablesValid s.cfgIn = true
  · refine ⟨_, exec_rst_valid hv, ?_⟩
    simp [hv]
  · refine ⟨_, exec_rst_invalid hv, ?_⟩
    simp [hv, errRegsAfter_configFault_code]

end Sys2Proof.Machine
end
